-- ==== Sys2Proof/Word.lean ====
section
/-! DEFINITION. The words and line values of TA2W (spec/00_scope.md R10, R11). -/

namespace Sys2Proof

/-- A level of a line or of a one-bit register: true is 1 (high), false is 0 (low) (R11). -/
abbrev Level := Bool

/-- The operand of a byte command, and the transmit shift register's contents. -/
abbrev Byte := BitVec 8

/-- A command word, and the contents of the 16-bit registers. -/
abbrev Word := BitVec 16

/-- Direction of the data line (10_state.md R23). -/
inductive Dir where
  | out   -- OUT, encoded 0: the engine drives the line
  | inp   -- IN, encoded 1: the engine samples the line
deriving DecidableEq, Repr

/-- What the engine contributes to a wire (R11). -/
inductive Drive where
  | low        -- L: pulls low
  | high       -- H: drives high, push-pull only
  | released   -- Z: contributes nothing
deriving DecidableEq, Repr

/-- What the peripherals together contribute to a wire: they are open-drain, so never high
(20_memory.md R52, R56). -/
inductive Pull where
  | low        -- L
  | released   -- Z
deriving DecidableEq, Repr

/-- The resolved state of a wire (R11, 20_memory.md R52). -/
inductive Wire where
  | level (v : Level)
  | contention   -- X: push-pull high against a peripheral's low
deriving DecidableEq, Repr

/-- The three fixed delays, 2, 5 and 10 microseconds (00_scope.md R9). -/
inductive Delay where
  | us2
  | us5
  | us10
deriving DecidableEq, Repr

/-- The error codes a response can carry (10_state.md R31); the value 3 is never produced. -/
inductive ErrCode where
  | ok
  | illegalCmd
  | spinTimeout
deriving DecidableEq, Repr

end Sys2Proof
end

