-- ==== Sys2Proof/Config.lean ====
section
/-! DEFINITION. What an implementation of TA2W fixes, and the one free value (00_scope.md R9,
93_implementation_defined.md U1, U3, U4). -/

namespace Sys2Proof

/-- Who a machine is, as 00_scope.md R2 asks a model to record it. -/
structure Identity where
  block      : String
  repository : String
  document   : String
  extensions : List String
  options    : List String   -- the OPEN parameters of R9
deriving DecidableEq, Repr

/-- R2's identity of TA2W: no vendor, part number or version exists, there is no extension, and
the only options are R9's two OPEN parameters. -/
def Config.identity : Identity where
  block := "TA2W"
  repository := "jstowe3/Thermostat_Alert"
  document := "the source"
  extensions := []
  options := ["F_CLK_HZ", "P_SPIN_LIMIT"]

/-- The FREE VALUE of a sample taken under contention: the level the k-th such sample returns
(20_memory.md R54, U1). It has no body, so no proof can know it; assumption 3. -/
opaque Config.contendedSample : Nat → Level

/-- The OPEN parameter F_CLK_HZ (00_scope.md R9, D21): the clock's frequency in hertz. No step
reads it; assumption 8. -/
opaque Config.fClkHz : Nat

/-- The OPEN parameter P_SPIN_LIMIT (00_scope.md R9, D19): how many samples one busy-wait may take
before the command is aborted. `samples 0` is no value of the parameter (it is a positive natural). -/
inductive SpinLimit where
  | unlimited
  | samples (n : Nat)
deriving DecidableEq, Repr

/-- N_BYTE_BITS: data bits of an I2C byte and of an SHT15 command (00_scope.md R9). -/
def Config.byteBits : Nat := 8

/-- N_SHT_CLOCKS: clock pulses of the SHT15 16-bit read (00_scope.md R9). -/
def Config.shtClocks : Nat := 17

/-- SHT_ACK_INDEX: which of the 17 pulses is the acknowledge (00_scope.md R9). -/
def Config.shtAckIndex : Nat := 8

end Sys2Proof
end

