-- ==== Sys2Proof/Syntax.lean ====
section
/-! DEFINITION. The commands of TA2W, one constructor per row of spec/opcode_table.json, the raw
fields of a command word, and the micro-operations the command rules are written in. -/

namespace Sys2Proof

/-- The seven commands (30_encoding.md R81, R82). -/
inductive Instr where
  | i2cStart                      -- I2C_START
  | i2cWrite (byte : Byte)        -- I2C_WRITE byte
  | i2cRead (sendAck : Bool)      -- I2C_READ send_ack
  | i2cStop                       -- I2C_STOP
  | shtStart                      -- SHT_START
  | shtCmd (byte : Byte)          -- SHT_CMD byte
  | shtRead16                     -- SHT_READ16
deriving DecidableEq, Repr

/-- The fields of a command word as they stand, legal or not (30_encoding.md R80). -/
structure Fields where
  rsv : BitVec 5    -- bits 15:11
  op  : BitVec 3    -- bits 10:8
  arg : Byte        -- bits 7:0
deriving DecidableEq, Repr

/-- What a `SetSDA` of a micro-program takes its level from (40_line_and_delay_primitives.md R111 (c)). -/
inductive SdaSource where
  | const (v : Level)   -- a level the command fixes (0, 1, or NOT send_ack)
  | txMsb               -- TXSR[7]
deriving DecidableEq, Repr

/-- The entries of a flattened micro-program (R100 to R106). The register updates of R110 ride on
the entry they belong to. -/
inductive MicroOp where
  | setScl (v : Level)
  | setSda (src : SdaSource)
  | setDir (d : Dir)
  | setOd
  | wait (d : Delay)
  | waitShift (d : Delay)   -- Wait(n), then TXSR <- TXSR << 1 (R110)
  | sampleAcc               -- Sample() into ACC
  | sampleAck               -- NOT Sample() into ack
  | spinWhile (v : Level)
deriving DecidableEq, Repr

/-- What a command does to a working register at acceptance (R114). -/
inductive WorkInit where
  | nothing
  | loadTxsr (byte : Byte)
  | clearAcc
deriving DecidableEq, Repr

/-- Where a completed command's response comes from (30_encoding.md R89). -/
inductive ReplyKind where
  | empty      -- (0, 0, OK)
  | ack        -- (0, ack, OK)
  | accLow     -- (zext_16(ACC[7:0]), 0, OK)
  | accFull    -- (ACC, 0, OK)
deriving DecidableEq, Repr

/-- What the sequencer knows of a command: its op code and operand, its start, its flattened
micro-program and its response (10_state.md R35, R110, R114, R115). -/
structure Command where
  op      : BitVec 3
  arg     : Byte
  init    : WorkInit
  program : List MicroOp
  reply   : ReplyKind
deriving DecidableEq, Repr

end Sys2Proof
end

