-- ==== Sys2Proof/WellFormed.lean ====
section
/-! DEFINITION. Which fields make a legal command word (30_encoding.md R82, R84). An `Instr` is
well formed by its types (8-bit bytes, one-bit send_ack); the checks below are those of the raw
fields, and `Instr.wellFormed` asks them of the fields the instruction is encoded with. -/

namespace Sys2Proof

/-- Bits 15:11 are 0. -/
def Fields.rsvOk (f : Fields) : Bool := f.rsv == 0

/-- The op code is assigned: 0 is not (R81). -/
def Fields.opOk (f : Fields) : Bool := f.op != 0

/-- Op codes 1, 4, 5 and 7 take no operand, so `arg` must be 0 (R82). -/
def Fields.noOperandOk (f : Fields) : Bool :=
  !(f.op == 1 || f.op == 4 || f.op == 5 || f.op == 7) || f.arg == 0

/-- Op code 3 takes one bit, so `arg[7:1]` must be 0 (R82). -/
def Fields.sendAckOk (f : Fields) : Bool :=
  !(f.op == 3) || f.arg.extractLsb' 1 7 == 0

/-- Every check a legal command word passes (R84). -/
def Fields.wellFormed (f : Fields) : Bool :=
  f.rsvOk && f.opOk && f.noOperandOk && f.sendAckOk

end Sys2Proof
end

