-- ==== Sys2Proof/Decode.lean ====
section
/-! DEFINITION. The decoder, total on every 16-bit word and rejecting by name, and the encoder
(30_encoding.md R80 to R84). -/

namespace Sys2Proof

/-- Why a word is no command (30_encoding.md R84). -/
inductive DecodeError where
  | reservedBits     -- one of bits 15:11 is set
  | opUnassigned     -- op = 0
  | argNotZero       -- a nonzero arg on a command that takes no operand
  | argHighBits      -- one of arg[7:1] set on I2C_READ
deriving DecidableEq, Repr

/-- The fields of a word (R80). -/
def fieldsOf (w : Word) : Fields :=
  { rsv := w.extractLsb' 11 5, op := w.extractLsb' 8 3, arg := w.extractLsb' 0 8 }

/-- The word with these fields (R80). -/
def Fields.toWord (f : Fields) : Word := f.rsv ++ f.op ++ f.arg

/-- A command without an operand: its `arg` is 0 (R82). -/
def noOperand (f : Fields) (i : Instr) : Except DecodeError Instr :=
  if f.arg = 0 then .ok i else .error .argNotZero

/-- The command with these fields (R83's decode function). -/
def decodeFields (f : Fields) : Except DecodeError Instr :=
  if f.rsv ≠ 0 then .error .reservedBits
  else if f.op = 1 then noOperand f .i2cStart
  else if f.op = 2 then .ok (.i2cWrite f.arg)
  else if f.op = 3 then
    if f.arg.extractLsb' 1 7 = 0 then .ok (.i2cRead (f.arg.getLsbD 0)) else .error .argHighBits
  else if f.op = 4 then noOperand f .i2cStop
  else if f.op = 5 then noOperand f .shtStart
  else if f.op = 6 then .ok (.shtCmd f.arg)
  else if f.op = 7 then noOperand f .shtRead16
  else .error .opUnassigned

/-- The command a word stands for, or why it stands for none (R83, R84). -/
def decode (w : Word) : Except DecodeError Instr := decodeFields (fieldsOf w)

/-- The command a word stands for, if any: `decode` with the reason dropped. -/
def decode? (w : Word) : Option Instr :=
  match decode w with
  | .ok i => some i
  | .error _ => none

/-- The op code of a command (R81). -/
def opOf : Instr → BitVec 3
  | .i2cStart => 1
  | .i2cWrite _ => 2
  | .i2cRead _ => 3
  | .i2cStop => 4
  | .shtStart => 5
  | .shtCmd _ => 6
  | .shtRead16 => 7

/-- The operand field of a command (R82). -/
def argOf : Instr → Byte
  | .i2cStart => 0
  | .i2cWrite byte => byte
  | .i2cRead sendAck => if sendAck then 1 else 0
  | .i2cStop => 0
  | .shtStart => 0
  | .shtCmd byte => byte
  | .shtRead16 => 0

/-- The fields a command is encoded with. -/
def instrFields (i : Instr) : Fields := { rsv := 0, op := opOf i, arg := argOf i }

/-- The command word of a command (R80, R81, R82). -/
def encode (i : Instr) : Word := (instrFields i).toWord

/-- A command is well formed when its fields pass every check. -/
def instrWellFormed (i : Instr) : Bool := (instrFields i).wellFormed

/-- One row of R83's table. -/
structure Row where
  mnemonic : String
  pattern  : Word
  mask     : Word
deriving DecidableEq, Repr

/-- R83's table, row by row. -/
def rows : List Row :=
  [ { mnemonic := "I2C_START", pattern := 0x0100, mask := 0xFFFF },
    { mnemonic := "I2C_WRITE", pattern := 0x0200, mask := 0xFF00 },
    { mnemonic := "I2C_READ", pattern := 0x0300, mask := 0xFFFE },
    { mnemonic := "I2C_STOP", pattern := 0x0400, mask := 0xFFFF },
    { mnemonic := "SHT_START", pattern := 0x0500, mask := 0xFFFF },
    { mnemonic := "SHT_CMD", pattern := 0x0600, mask := 0xFF00 },
    { mnemonic := "SHT_READ16", pattern := 0x0700, mask := 0xFFFF } ]

/-- A word is the command of a row when it agrees with the row's pattern under its mask (R83). -/
def Row.covers (r : Row) (w : Word) : Bool := w &&& r.mask == r.pattern

/-- The mnemonic of a command (R81). -/
def mnemonicOf : Instr → String
  | .i2cStart => "I2C_START"
  | .i2cWrite _ => "I2C_WRITE"
  | .i2cRead _ => "I2C_READ"
  | .i2cStop => "I2C_STOP"
  | .shtStart => "SHT_START"
  | .shtCmd _ => "SHT_CMD"
  | .shtRead16 => "SHT_READ16"

/-- What the decoder reads from an instruction whose bits are `w`, `nbits` of them given by the
opcode table and every bit above them 0. A command is one 16-bit word on a port (R80), so there
are no bytes to lay out. -/
def decodeTableWord (nbits w : Nat) : Option Instr := decode? (BitVec.ofNat 16 (w % 2 ^ nbits))

end Sys2Proof
end

