-- ==== Sys2Proof/Machine/State.lean ====
section
/-! DEFINITION. The state of TA2W (spec/10_state.md), what a step can stop with, and the state
after reset (R39). -/

namespace Sys2Proof.Machine

/-- Why the machine stops. -/
inductive Fault where
  /-- BUSY = 1 while (CUR_OP, CUR_ARG) hold no command, or UPC is past the end of its
  micro-program. Raised by `runCommand` and `step`. The spec says neither happens (10_state.md
  R35), so it gives no meaning; SAFE: the model stops where nothing is known, and no run from
  reset comes here (assumption 13). -/
  | sequencerLost
deriving DecidableEq, Repr

/-- Why the model gives an instruction no meaning. -/
inductive Refusal where
  /-- Raised by a dispatch arm whose instruction has no meaning yet, and by nothing else. SAFE. No
  arm raises it in this model: every instruction has its meaning. -/
  | notModelled (mnemonic : String)
deriving DecidableEq, Repr

/-- A move of the host (10_state.md R42, 60_exceptions.md R172, 70_reset_and_hazards.md R181;
assumption 1). -/
inductive HostMove where
  | issue (w : Word)   -- offer a command word and hold it until it is accepted
  | wait               -- offer nothing for one step
  | reset              -- assert rst for one step
deriving DecidableEq, Repr

/-- The symbols of a trace (00_scope.md R13). -/
inductive TraceOp where
  | scl (v : Level)      -- C0, C1
  | sda (v : Level)      -- D0, D1
  | dir (d : Dir)        -- Zo, Zi
  | od                   -- OD
  | wait (d : Delay)     -- W2, W5, W10
  | sample (v : Level)   -- S=0, S=1
deriving DecidableEq, Repr

/-- A command's response (30_encoding.md R89). -/
structure Response where
  data : Word
  ack  : Bool
  err  : ErrCode
deriving DecidableEq, Repr

/-- What an observer of a run records (60_exceptions.md R174, 20_memory.md R66, 70_reset_and_hazards.md
R181; assumption 10): everything that can change a wire, each with the two resolved wires after it,
and the responses. -/
inductive Event where
  | micro (op : TraceOp) (scl sda : Wire)   -- the engine performed a micro-operation
  | pull (p : Pull) (scl sda : Wire)        -- the environment changed its contribution
  | reset (scl sda : Wire)                  -- rst = 1, the marker of R181
  | response (r : Response)                 -- a command completed
deriving DecidableEq, Repr

end Sys2Proof.Machine

namespace Sys2Proof.Machine

/-- All TA2W holds (10_state.md R20), the strobe and the parameter beside it, and the model's own
fields: what the environment and the host will do, and what an observer has recorded. -/
@[ext]
structure State where
  /-- SCL_LAT, output latch of the clock line (R21). -/
  sclLat : Level
  /-- SDA_LAT, output latch of the data line (R22). -/
  sdaLat : Level
  /-- SDA_DIR, direction of the data line (R23). -/
  sdaDir : Dir
  /-- OD_EN, open-drain mode of both lines (R25). -/
  odEn : Bool
  /-- TXSR, transmit shift register (R27). -/
  txsr : Byte
  /-- ACC, receive accumulator (R28). -/
  acc : Word
  /-- RESULT, data result of the last completed command (R29). -/
  result : Word
  /-- ACKF, acknowledge flag of the last completed command (R30). -/
  ackf : Bool
  /-- ERR, error code of the last completed command (R31). -/
  err : ErrCode
  /-- BUSY (R32). -/
  busy : Bool
  /-- CUR_OP, op code of the command in progress (R35). -/
  curOp : BitVec 3
  /-- CUR_ARG, operand of the command in progress (R35). -/
  curArg : Byte
  /-- UPC, index of the next micro-operation (R35). -/
  upc : BitVec 7
  /-- SPIN_CNT, samples taken by the current SpinWhile (R36). -/
  spinCnt : Nat
  /-- DLY_CNT, the delay unit's counter (R36, 60_exceptions.md R170). -/
  dlyCnt : Nat
  /-- rsp_valid: 1 after a step in which a command completed (R33, R40; assumption 11). -/
  rspValid : Bool
  /-- P_SPIN_LIMIT: a parameter, which no step changes (00_scope.md R9; assumption 7). -/
  spinLimit : SpinLimit
  /-- The model's own: `ack` of I2C_WRITE between its sample and its completion (assumption 4). -/
  ack : Bool
  /-- The model's own: what the peripherals contribute to the data wire now (20_memory.md R52, R56;
  assumption 2). -/
  pSda : Pull
  /-- The model's own: the moves they will make, one entry a step: the contributions they take, one
  after another and any number of them, before that step's own move (20_memory.md R56, R58;
  assumption 2). -/
  env : List (List Pull)
  /-- The model's own: the host's coming moves (assumption 1). -/
  host : List HostMove
  /-- The model's own: how many contended samples have been drawn (assumption 3). -/
  draws : Nat
  /-- The model's own: what an observer recorded, newest first (assumption 10). -/
  log : List Event
deriving DecidableEq, Repr

/-- The machine right after reset (R39): both latches 1, the data line an output, push-pull,
everything else 0. P_SPIN_LIMIT has its default (R9). The model's own fields are at values of the
model's choosing: no peripheral pulls, nobody has asked for anything, nothing is recorded. -/
def State.reset : State where
  sclLat := true
  sdaLat := true
  sdaDir := .out
  odEn := false
  txsr := 0
  acc := 0
  result := 0
  ackf := false
  err := .ok
  busy := false
  curOp := 0
  curArg := 0
  upc := 0
  spinCnt := 0
  dlyCnt := 0
  rspValid := false
  spinLimit := .unlimited
  ack := false
  pSda := .released
  env := []
  host := []
  draws := 0
  log := []

end Sys2Proof.Machine
end

