-- ==== Sys2Proof/Machine/Flags.lean ====
section
/-! DEFINITION. The arithmetic of TA2W (40_line_and_delay_primitives.md R107 to R109) and its
response flags (10_state.md R29 to R31, 30_encoding.md R89). -/

namespace Sys2Proof.Machine

/-- The transmit shift: bit 7 is lost, bit 0 becomes 0 (R107). -/
def shiftTx (t : Byte) : Byte := t <<< 1

/-- One sampled level as a 16-bit word, `zext_16(s)` (R108). -/
def levelWord (v : Level) : Word := if v then 1 else 0

/-- The receive accumulate: shift first, then OR in the sampled level (R108). -/
def accumulate (a : Word) (v : Level) : Word := (a <<< 1) ||| levelWord v

/-- The acknowledge: NOT of the sampled level, active low (R109). -/
def ackOf (v : Level) : Bool := !v

/-- The two bits of an error code (10_state.md R31). -/
def errBits (e : ErrCode) : BitVec 2 :=
  match e with
  | .ok => 0
  | .illegalCmd => 1
  | .spinTimeout => 2

/-- The response of a command that ran to its end (30_encoding.md R89). -/
def replyOf (k : ReplyKind) (s : State) : Response :=
  match k with
  | .empty => { data := 0, ack := false, err := .ok }
  | .ack => { data := 0, ack := s.ack, err := .ok }
  | .accLow => { data := (s.acc.extractLsb' 0 8).setWidth 16, ack := false, err := .ok }
  | .accFull => { data := s.acc, ack := false, err := .ok }

/-- The response of an aborted command or of an illegal word: no data, no acknowledge, and the
code that says why (60_exceptions.md R162, 30_encoding.md R84). -/
def errorResponse (e : ErrCode) : Response := { data := 0, ack := false, err := e }

end Sys2Proof.Machine
end

