-- ==== Sys2Proof/Machine/Operands.lean ====
section
/-! DEFINITION. The operand forms of TA2W: the level a `SetSDA` of a micro-program takes
(40_line_and_delay_primitives.md R111 (c)), and the command the sequencer holds (10_state.md R35). -/

namespace Sys2Proof.Machine

/-- The level a `SetSDA` sets: one the command fixes, or TXSR[7] read before the shift (R107). -/
def sdaOperand (src : SdaSource) (s : State) : Level :=
  match src with
  | .const v => v
  | .txMsb => s.txsr.getLsbD 7

/-- The level of I2C_READ's acknowledge slot: 0 for send_ack = 1, 1 for send_ack = 0
(41_i2c_byte_engine.md R122). -/
def sendAckLevel (sendAck : Bool) : Level := !sendAck

/-- The command in progress, read back from CUR_OP and CUR_ARG (R35). -/
def currentInstr (s : State) : Option Instr :=
  match decodeFields { rsv := 0, op := s.curOp, arg := s.curArg } with
  | .ok i => some i
  | .error _ => none

end Sys2Proof.Machine
end

