-- ==== Sys2Proof/Machine/Ops.lean ====
section
/-! DEFINITION. The named operations over the lines and the registers: drive, resolution and
sample, the micro-operations, completion (TA2W's whole "trap entry"), acceptance, reset, the
sequencer, and which move a step makes. -/

namespace Sys2Proof.Machine

/-! ## The two wires (20_memory.md R51 to R54) -/

/-- What a latch contributes in the output mode `od` (R51). -/
def driveOf (od : Bool) (v : Level) : Drive :=
  match od, v with
  | _, false => .low
  | true, true => .released
  | false, true => .high

/-- The engine's contribution to the clock wire, m_scl (R51). -/
def driveScl (s : State) : Drive := driveOf s.odEn s.sclLat

/-- The engine's contribution to the data wire, m_sda (R51). -/
def driveSda (s : State) : Drive :=
  match s.sdaDir with
  | .inp => .released
  | .out => driveOf s.odEn s.sdaLat

/-- Wire resolution with a pull-up (R52, R53). -/
def resolve (m : Drive) (p : Pull) : Wire :=
  match m, p with
  | .low, _ => .level false
  | .released, .low => .level false
  | .released, .released => .level true
  | .high, .released => .level true
  | .high, .low => .contention

/-- The clock wire: no peripheral drives it (R57, assumption 14). -/
def sclWire (s : State) : Wire := resolve (driveScl s) .released

/-- The data wire, which is also the pad input sda_i (R52, 10_state.md R40). -/
def sdaWire (s : State) : Wire := resolve (driveSda s) s.pSda

/-- Drive enable of a pad (R51). -/
def padEnable (m : Drive) : Bool := m ≠ .released

/-- Drive level of a pad (R51). -/
def padLevel (m : Drive) : Level := m = .high

/-- What a sample returns: the wire's level, and under contention the free value of this draw
(R54, assumption 3). -/
def sampledLevel (s : State) : Level :=
  match sdaWire s with
  | .level v => v
  | .contention => Config.contendedSample s.draws

/-- A sample under contention uses up one draw, so that the next is independent of it (R54). -/
def countDraw (s : State) : State :=
  match sdaWire s with
  | .level _ => s
  | .contention => { s with draws := s.draws + 1 }

/-! ## The micro-operations (40_line_and_delay_primitives.md R100 to R106) -/

/-- Put a performed micro-operation on the observer's record, with the wires as it left them. -/
def record (op : TraceOp) (s : State) : State :=
  { s with log := .micro op (sclWire s) (sdaWire s) :: s.log }

/-- `SetSCL(v)` (R100). -/
def setScl (v : Level) (s : State) : State := record (.scl v) { s with sclLat := v }

/-- `SetSDA(v)` (R101): the latch changes whatever the direction is (10_state.md R26). -/
def setSda (v : Level) (s : State) : State := record (.sda v) { s with sdaLat := v }

/-- `SetDir(d)` (R102). -/
def setDir (d : Dir) (s : State) : State := record (.dir d) { s with sdaDir := d }

/-- `SetOD()` (R103). -/
def setOd (s : State) : State := record .od { s with odEn := true }

/-- `Wait(n)` (R104): no line changes; the step is over when DLY_CNT has counted down to 0 (R170). -/
def wait (d : Delay) (s : State) : State := record (.wait d) { s with dlyCnt := 0 }

/-- `Wait(n)` with the shift of TXSR riding on it (R110). -/
def waitShift (d : Delay) (s : State) : State := wait d { s with txsr := shiftTx s.txsr }

/-- `Sample()` into ACC (R105, R108). -/
def sampleAcc (s : State) : State :=
  record (.sample (sampledLevel s)) (countDraw { s with acc := accumulate s.acc (sampledLevel s) })

/-- `NOT Sample()` into ack (R105, R109). -/
def sampleAck (s : State) : State :=
  record (.sample (sampledLevel s)) (countDraw { s with ack := ackOf (sampledLevel s) })

/-- One sample of a `SpinWhile` (R106). -/
def sampleSpin (s : State) : State :=
  record (.sample (sampledLevel s)) (countDraw { s with spinCnt := s.spinCnt + 1 })

/-- Is the spin's limit reached once `n` samples have been taken (R106)? -/
def spinLimitReached (l : SpinLimit) (n : Nat) : Bool :=
  match l with
  | .unlimited => false
  | .samples k => n = k

/-- How the sequencer goes on after a micro-operation. -/
inductive Flow where
  | advance            -- the next micro-operation, or completion after the last
  | stay               -- a spin that samples again
  | abort (e : ErrCode)
deriving DecidableEq, Repr

/-- The state a micro-operation leaves. -/
def perform (m : MicroOp) (s : State) : State :=
  match m with
  | .setScl v => setScl v s
  | .setSda src => setSda (sdaOperand src s) s
  | .setDir d => setDir d s
  | .setOd => setOd s
  | .wait d => wait d s
  | .waitShift d => waitShift d s
  | .sampleAcc => sampleAcc s
  | .sampleAck => sampleAck s
  | .spinWhile _ => sampleSpin s

/-- How the sequencer goes on after a micro-operation performed in `s`: only a spin does anything
but advance. It ends at the first sample that differs, which is tested before the limit (R106). -/
def flowOf (m : MicroOp) (s : State) : Flow :=
  match m with
  | .spinWhile v =>
    if sampledLevel s ≠ v then .advance
    else if spinLimitReached s.spinLimit (s.spinCnt + 1) then .abort .spinTimeout
    else .stay
  | _ => .advance

/-! ## The sequencer (10_state.md R33, R35, R41; 60_exceptions.md R162, R163) -/

/-- Completion: the latches take the response, BUSY and UPC go to 0, rsp_valid is 1 and no line is
touched (R33). This is the whole "trap entry" of TA2W (R163): the end of a command, an abort and
an illegal word all go through it. -/
def respond (r : Response) (s : State) : State :=
  { s with
    result := r.data, ackf := r.ack, err := r.err, busy := false, upc := 0, rspValid := true,
    log := .response r :: s.log }

/-- Is this entry of a micro-program a spin? -/
def isSpin (m : Option MicroOp) : Bool :=
  match m with
  | some (.spinWhile _) => true
  | _ => false

/-- UPC moves to entry `k`; a spin that begins there clears SPIN_CNT (R106, assumption 9). -/
def enter (c : Command) (k : BitVec 7) (s : State) : State :=
  { s with upc := k, spinCnt := if isSpin c.program[k.toNat]? then 0 else s.spinCnt }

/-- After a micro-operation: the next entry, or completion if it was the last (R33, R35). -/
def advance (c : Command) (s : State) : State :=
  if s.upc.toNat + 1 < c.program.length then enter c (s.upc + 1) s
  else respond (replyOf c.reply s) s

/-- The engine's move: the micro-operation at UPC (R42, R110). -/
def microStep (c : Command) (s : State) : Host.Outcome State Fault Refusal :=
  match c.program[s.upc.toNat]? with
  | none => .fault .sequencerLost
  | some m =>
    match flowOf m s with
    | .advance => .next (advance c (perform m s))
    | .stay => .next (perform m s)
    | .abort e => .next (respond (errorResponse e) (perform m s))

/-- What acceptance does to the working register the command uses (R114). -/
def initWork (w : WorkInit) (s : State) : State :=
  match w with
  | .nothing => s
  | .loadTxsr byte => { s with txsr := byte }
  | .clearAcc => { s with acc := 0 }

/-- Acceptance of a legal command (R41): BUSY is set, the command is latched, its working register
is initialised and its micro-program starts. No line changes. -/
def accept (c : Command) (s : State) : State :=
  enter c 0 (initWork c.init { s with busy := true, curOp := c.op, curArg := c.arg })

/-- One move of a command (R42): acceptance when idle, its micro-operation at UPC when busy. -/
def runCommand (c : Command) (s : State) : Host.Outcome State Fault Refusal :=
  if s.busy then microStep c s else .next (accept c s)

/-- An illegal word offered while idle (30_encoding.md R84): the response says so, and nothing
else happens (assumption 5). -/
def rejectWord (s : State) : State := respond (errorResponse .illegalCmd) s

/-! ## Reset (70_reset_and_hazards.md R180, R181) -/

/-- Every item of state takes its reset value, whatever was in progress. The parameter, the
environment, the host's later moves and the observer's record are not TA2W's, so they stay; the
record gets a marker (R181), with the wires as the reset leaves them. -/
def applyReset (s : State) : State :=
  { State.reset with
    spinLimit := s.spinLimit, pSda := s.pSda, env := s.env, host := s.host, draws := s.draws,
    log := .reset (sclWire State.reset) (sdaWire { State.reset with pSda := s.pSda }) :: s.log }

/-! ## Which move a step makes (10_state.md R42, 60_exceptions.md R166, R171) -/

/-- What a run of the environment's contributions puts on the record, oldest first: one entry for each
that changes it from the one before, with the wires as it makes them; the clock wire and the engine's
contribution do not move meanwhile. -/
def pullEvents (scl : Wire) (drive : Drive) (now : Pull) (ps : List Pull) : List Event :=
  match ps with
  | [] => []
  | p :: ps =>
    if p = now then pullEvents scl drive now ps
    else .pull p scl (resolve drive p) :: pullEvents scl drive p ps

/-- What the environment's coming moves put on the record, newest first. -/
def envEvents (s : State) : List Event :=
  match s.env with
  | [] => []
  | ps :: _ => (pullEvents (sclWire s) (driveSda s) s.pSda ps).reverse

/-- The environment's moves: any number of them before every step, hence between any two
micro-operations (20_memory.md R56, R58). The last one stands when the step's own move is made. -/
def envMove (s : State) : State :=
  match s.env with
  | [] => s
  | ps :: rest => { s with pSda := ps.getLastD s.pSda, env := rest, log := envEvents s ++ s.log }

/-- What every step begins with: the environment's moves, and rsp_valid falls (R33). -/
def tick (s : State) : State := { envMove s with rspValid := false }

/-- The host lets one step pass, if that is what it does next; a word it holds stays held while
the engine is busy (R41, R172). -/
def hostWait (s : State) : State :=
  match s.host with
  | .wait :: rest => { s with host := rest }
  | _ => s

/-- The moves a step can make, with the state each starts from. -/
inductive Move where
  | reset (t : State)              -- rst = 1
  | run (i : Instr) (t : State)    -- the engine goes on with i, or the host issues it
  | illegal (t : State)            -- the host issues a word that is no command
  | idle (t : State)               -- nothing to do
  | lost                           -- BUSY = 1 with no command latched
deriving DecidableEq, Repr

/-- The engine's move when BUSY = 1 (R42): cmd_word is not looked at (R41). -/
def engineMove (s : State) : Move :=
  match currentInstr s with
  | some i => .run i (hostWait s)
  | none => .lost

/-- The host's move when BUSY = 0: its word is accepted or, if illegal, consumed (R41, R84). -/
def hostMove (s : State) : Move :=
  match s.host with
  | .issue w :: rest =>
    match decode? w with
    | some i => .run i { s with host := rest }
    | none => .illegal { s with host := rest }
  | _ => .idle (hostWait s)

/-- The priority of R166: rst, then BUSY, then the host's word. -/
def chooseMove (s : State) : Move :=
  match s.host with
  | .reset :: rest => .reset { s with host := rest }
  | _ => if s.busy then engineMove s else hostMove s

/-! ## Host ports (10_state.md R40) -/

/-- cmd_ready = NOT BUSY. -/
def cmdReady (s : State) : Bool := !s.busy

/-- cmd_valid: the host offers a word. -/
def cmdValid (s : State) : Bool :=
  match s.host with
  | .issue _ :: _ => true
  | _ => false

/-- rsp_data, rsp_ack and rsp_err (30_encoding.md R89). -/
def responsePorts (s : State) : Word × Bool × BitVec 2 := (s.result, s.ackf, errBits s.err)

/-- scl_oe, scl_o, sda_oe, sda_o (20_memory.md R51). -/
def padPorts (s : State) : Bool × Level × Bool × Level :=
  (padEnable (driveScl s), padLevel (driveScl s), padEnable (driveSda s), padLevel (driveSda s))

/-! ## The delay unit (60_exceptions.md R170, 70_reset_and_hazards.md R193, R194) -/

/-- The microseconds of a delay (00_scope.md R9). -/
def delayMicros (d : Delay) : Nat :=
  match d with
  | .us2 => 2
  | .us5 => 5
  | .us10 => 10

/-- N_n = ceil(n * 10^-6 * F_CLK_HZ): what DLY_CNT is loaded with (R170). -/
def delayCount (fClkHz : Nat) (d : Delay) : Nat := (delayMicros d * fClkHz + 999999) / 1000000

/-- The microseconds a micro-operation waits, at the least. -/
def microWait (m : MicroOp) : Nat :=
  match m with
  | .wait d => delayMicros d
  | .waitShift d => delayMicros d
  | _ => 0

/-- The cycles of clk a micro-operation takes, at the least: a Wait its count, any other one (R193). -/
def microCycles (m : MicroOp) : Nat :=
  match m with
  | .wait d => delayCount Config.fClkHz d
  | .waitShift d => delayCount Config.fClkHz d
  | _ => 1

end Sys2Proof.Machine
end

