-- ==== Sys2Proof/Machine/I2c.lean ====
section
/-! DEFINITION. The generic I2C byte engine: I2C_START, I2C_WRITE, I2C_READ, I2C_STOP, each as its
flattened micro-program (41_i2c_byte_engine.md R120 to R127) and its meaning. -/

namespace Sys2Proof.Machine

/-! ## I2C_START (R120) -/

/-- R120's sequence. -/
def i2cStartProgram : List MicroOp :=
  [ .setOd,
    .setSda (.const true), .wait .us10,
    .setScl true, .wait .us10,
    .setSda (.const false), .wait .us10,
    .setScl false ]

/-- I2C_START to the sequencer. -/
def i2cStartCommand : Command where
  op := 1
  arg := 0
  init := .nothing
  program := i2cStartProgram
  reply := .empty

/-- I2C_START (R120). -/
def execI2cStart (s : State) : Host.Outcome State Fault Refusal := runCommand i2cStartCommand s

/-! ## I2C_WRITE (R121) -/

/-- One data bit of a write: set it, wait, pulse the clock, wait and shift. -/
def i2cWriteBit : List MicroOp :=
  [ .setSda .txMsb, .wait .us2,
    .setScl true, .wait .us5,
    .setScl false, .waitShift .us2 ]

/-- R121's sequence. -/
def i2cWriteProgram : List MicroOp :=
  (List.replicate Config.byteBits i2cWriteBit).flatten ++
  [ .setSda (.const true), .wait .us2,
    .setScl true, .wait .us5,
    .sampleAck,
    .setScl false, .wait .us10 ]

/-- I2C_WRITE to the sequencer. -/
def i2cWriteCommand (byte : Byte) : Command where
  op := 2
  arg := byte
  init := .loadTxsr byte
  program := i2cWriteProgram
  reply := .ack

/-- I2C_WRITE byte (R121). -/
def execI2cWrite (byte : Byte) (s : State) : Host.Outcome State Fault Refusal :=
  runCommand (i2cWriteCommand byte) s

/-! ## I2C_READ (R122) -/

/-- One data bit of a read: wait, raise the clock, sample, drop the clock. -/
def i2cReadBit : List MicroOp :=
  [ .wait .us2,
    .setScl true, .wait .us5,
    .sampleAcc,
    .setScl false, .wait .us2 ]

/-- R122's sequence. -/
def i2cReadProgram (sendAck : Bool) : List MicroOp :=
  [ .setSda (.const true), .wait .us2 ] ++
  (List.replicate Config.byteBits i2cReadBit).flatten ++
  [ .setSda (.const (sendAckLevel sendAck)), .wait .us2,
    .setScl true, .wait .us5,
    .setScl false, .wait .us2,
    .setSda (.const true), .wait .us10 ]

/-- I2C_READ to the sequencer. -/
def i2cReadCommand (sendAck : Bool) : Command where
  op := 3
  arg := if sendAck then 1 else 0
  init := .clearAcc
  program := i2cReadProgram sendAck
  reply := .accLow

/-- I2C_READ send_ack (R122). -/
def execI2cRead (sendAck : Bool) (s : State) : Host.Outcome State Fault Refusal :=
  runCommand (i2cReadCommand sendAck) s

/-! ## I2C_STOP (R123) -/

/-- R123's sequence. -/
def i2cStopProgram : List MicroOp :=
  [ .setSda (.const false), .wait .us10,
    .setScl true, .wait .us10,
    .setSda (.const true), .wait .us10 ]

/-- I2C_STOP to the sequencer. -/
def i2cStopCommand : Command where
  op := 4
  arg := 0
  init := .nothing
  program := i2cStopProgram
  reply := .empty

/-- I2C_STOP (R123). -/
def execI2cStop (s : State) : Host.Outcome State Fault Refusal := runCommand i2cStopCommand s

end Sys2Proof.Machine
end

