-- ==== Sys2Proof/Machine/Sht.lean ====
section
/-! DEFINITION. The SHT15 2-wire engine: SHT_START, SHT_CMD, SHT_READ16, each as its flattened
micro-program (42_sht15_engine.md R141 to R146) and its meaning. -/

namespace Sys2Proof.Machine

/-! ## SHT_START (R141) -/

/-- R141's sequence: seven level sets with no delay between them. -/
def shtStartProgram : List MicroOp :=
  [ .setDir .out,
    .setSda (.const true), .setScl true,
    .setSda (.const false),
    .setScl false, .setScl true,
    .setSda (.const true),
    .setScl false ]

/-- SHT_START to the sequencer. -/
def shtStartCommand : Command where
  op := 5
  arg := 0
  init := .nothing
  program := shtStartProgram
  reply := .empty

/-- SHT_START (R141). -/
def execShtStart (s : State) : Host.Outcome State Fault Refusal := runCommand shtStartCommand s

/-! ## SHT_CMD (R142) -/

/-- One command bit: clock low, set the bit, wait, clock high, wait and shift. -/
def shtCmdBit : List MicroOp :=
  [ .setScl false,
    .setSda .txMsb, .wait .us2,
    .setScl true, .waitShift .us5 ]

/-- R142's sequence: eight bits, then the three busy-waits around the ninth clock. -/
def shtCmdProgram : List MicroOp :=
  (List.replicate Config.byteBits shtCmdBit).flatten ++
  [ .setScl false,
    .setDir .inp,
    .spinWhile true,
    .setScl true, .setScl false,
    .spinWhile false,
    .spinWhile true ]

/-- SHT_CMD to the sequencer. -/
def shtCmdCommand (byte : Byte) : Command where
  op := 6
  arg := byte
  init := .loadTxsr byte
  program := shtCmdProgram
  reply := .empty

/-- SHT_CMD byte (R142). -/
def execShtCmd (byte : Byte) (s : State) : Host.Outcome State Fault Refusal :=
  runCommand (shtCmdCommand byte) s

/-! ## SHT_READ16 (R143) -/

/-- One data pulse of the read. -/
def shtReadBit : List MicroOp :=
  [ .wait .us2,
    .setScl true, .wait .us5,
    .sampleAcc,
    .setScl false ]

/-- The acknowledge pulse: nothing is sampled in it. -/
def shtReadAck : List MicroOp :=
  [ .setDir .out,
    .setSda (.const false),
    .wait .us2,
    .setScl true, .wait .us5,
    .setScl false,
    .setDir .inp ]

/-- Pulse `i` of the 17. -/
def shtReadPulse (i : Nat) : List MicroOp :=
  if i = Config.shtAckIndex then shtReadAck else shtReadBit

/-- R143's sequence. -/
def shtRead16Program : List MicroOp :=
  [ .setDir .inp ] ++ (List.range Config.shtClocks).flatMap shtReadPulse

/-- SHT_READ16 to the sequencer. -/
def shtRead16Command : Command where
  op := 7
  arg := 0
  init := .clearAcc
  program := shtRead16Program
  reply := .accFull

/-- SHT_READ16 (R143). -/
def execShtRead16 (s : State) : Host.Outcome State Fault Refusal := runCommand shtRead16Command s

end Sys2Proof.Machine
end

