-- ==== Sys2Proof/Machine/Dispatch.lean ====
section
/-! DEFINITION. One arm per command of spec/opcode_table.json. -/

namespace Sys2Proof.Machine

/-- One move of the command `i`: its acceptance when the machine is idle, its micro-operation at
UPC when the machine is busy (10_state.md R42). -/
def exec (i : Instr) (s : State) : Host.Outcome State Fault Refusal :=
  match i with
  | .i2cStart => Sys2Proof.Machine.execI2cStart s
  | .i2cWrite byte => Sys2Proof.Machine.execI2cWrite byte s
  | .i2cRead sendAck => Sys2Proof.Machine.execI2cRead sendAck s
  | .i2cStop => Sys2Proof.Machine.execI2cStop s
  | .shtStart => Sys2Proof.Machine.execShtStart s
  | .shtCmd byte => Sys2Proof.Machine.execShtCmd byte s
  | .shtRead16 => Sys2Proof.Machine.execShtRead16 s

end Sys2Proof.Machine
end

