-- ==== Sys2Proof/Machine/Step.lean ====
section
/-! DEFINITION. One step of TA2W with its environment and its host (10_state.md R42). -/

namespace Sys2Proof.Machine

/-- The environment moves; then the host's reset, else the engine, else the host (R166, R171). -/
def step (s : State) : Host.Outcome State Fault Refusal :=
  match chooseMove (tick s) with
  | .reset t => .next (applyReset t)
  | .run i t => exec i t
  | .illegal t => .next (rejectWord t)
  | .idle t => .next t
  | .lost => .fault .sequencerLost

/-- `s` with the instruction offered by the host and the engine idle, so that the very next step
accepts it (assumption 18). -/
def State.withFetchWord (s : State) (nbits w : Nat) : State :=
  { s with busy := false, host := .issue (BitVec.ofNat 16 (w % 2 ^ nbits)) :: s.host }

end Sys2Proof.Machine
end

