-- ==== Sys2Proof/Safety.lean ====
section
/-! DEFINITION. What claims about TA2W are stated in: runs of steps, what an observer reads from the
record, the intended use of the commands (spec/70_reset_and_hazards.md), and the invariants. -/

namespace Sys2Proof.Machine

/-! ## Runs -/

/-- `k` steps from `s`, stopping at a fault or a refusal. -/
def runSteps (k : Nat) (s : State) : Host.Outcome State Fault Refusal :=
  match k with
  | 0 => .next s
  | k + 1 =>
    match step s with
    | .next t => runSteps k t
    | .fault r => .fault r
    | .refused r => .refused r

/-- The environment's contribution when the k-th coming step makes its own move, from its present one
and its coming moves: a step without any keeps what stands, and so does the end of the list. -/
def pullAt (now : Pull) (coming : List (List Pull)) (k : Nat) : Pull :=
  match coming, k with
  | [], _ => now
  | ps :: _, 0 => ps.getLastD now
  | ps :: rest, k + 1 => pullAt (ps.getLastD now) rest k

/-- The level peripherals alone put on a released wire (20_memory.md R52, R55 a). -/
def pullLevel (p : Pull) : Level := p = .released

/-- The host asks for no reset in what follows (D12's premise, "no reset during the run"). -/
def NoReset (s : State) : Prop := ∀ m ∈ s.host, m ≠ HostMove.reset

/-- No peripheral pulls the data line low, now or later. -/
def QuietBus (s : State) : Prop := s.pSda = .released ∧ ∀ ps ∈ s.env, ∀ p ∈ ps, p = Pull.released

/-- A peripheral pulls the data line low, now and later (70_reset_and_hazards.md R196). -/
def StuckLow (s : State) : Prop := s.pSda = .low ∧ ∀ ps ∈ s.env, ∀ p ∈ ps, p = Pull.low

/-! ## Intended use (R184 to R187, R191): what the spec asks of the host. The machine checks none
of it; a run that breaks it has the deterministic meaning the micro-programs give. -/

/-- The pin state in which the spec intends a command to be issued. -/
def IntendedUse (i : Instr) (s : State) : Prop :=
  match i with
  | .i2cStart => s.sdaDir = .out
  | .i2cWrite _ => s.sdaDir = .out ∧ s.odEn = true ∧ s.sclLat = false
  | .i2cRead _ => s.sdaDir = .out ∧ s.odEn = true ∧ s.sclLat = false
  | .i2cStop => s.sdaDir = .out
  | .shtStart => True
  | .shtCmd _ => s.sdaDir = .out
  | .shtRead16 => s.sclLat = false ∧ s.sdaDir = .inp

/-- The engine drives data high against a peripheral that pulls it low (20_memory.md R52, R55 d):
the only state in which a sample returns a free value. -/
def Contended (s : State) : Prop := sdaWire s = .contention

/-! ## What an observer reads from the record (00_scope.md R13, 20_memory.md R66) -/

/-- The trace symbol of an event. -/
def eventOp (e : Event) : Option TraceOp :=
  match e with
  | .micro op _ _ => some op
  | _ => none

/-- The trace of a list of events, oldest first (R13). -/
def opsOf (es : List Event) : List TraceOp := es.filterMap eventOp

/-- The response of an event. -/
def eventResponse (e : Event) : Option Response :=
  match e with
  | .response r => some r
  | _ => none

/-- The responses of a list of events, oldest first (60_exceptions.md R174). -/
def responsesOf (es : List Event) : List Response := es.filterMap eventResponse

/-- The two wires (clock, data) after an event, from those before it; a response moves no wire. -/
def wiresAfter (before : Wire × Wire) (e : Event) : Wire × Wire :=
  match e with
  | .micro _ scl sda => (scl, sda)
  | .pull _ scl sda => (scl, sda)
  | .reset scl sda => (scl, sda)
  | .response _ => before

/-- START: data changes from 1 to 0 while the clock is 1 (R66), by whoever's move. DESIGN CHOICE
(assumption 23): R66 speaks of levels only, so neither half of a change through contention (1, X, 0)
is one, and the clock is to be 1 before the change as well as after it. -/
def isStart (a b : Wire × Wire) : Bool :=
  a.1 = .level true && b.1 = .level true && a.2 = .level true && b.2 = .level false

/-- STOP: data changes from 0 to 1 while the clock is 1 (R66), by whoever's move. DESIGN CHOICE
(assumption 23): neither half of a change through contention (0, X, 1) is one, nor is a reset that
raises clock and data at once, which R181 says a peripheral may read either way. -/
def isStop (a b : Wire × Wire) : Bool :=
  a.1 = .level true && b.1 = .level true && a.2 = .level false && b.2 = .level true

/-- How often a change of the given kind happens in a list of events, from the wires before it. -/
def countChanges (kind : Wire × Wire → Wire × Wire → Bool) (before : Wire × Wire)
    (es : List Event) : Nat :=
  match es with
  | [] => 0
  | e :: es => (if kind before (wiresAfter before e) then 1 else 0) +
      countChanges kind (wiresAfter before e) es

/-- A clock edge (R66). -/
inductive Edge where
  | rise
  | fall
deriving DecidableEq, Repr

/-- The clock edge an event is, from the wires before it: only a `SetSCL` makes one, and only when it
changes SCL_LAT (R66), which the clock wire shows (R57). A reset makes none. -/
def edgeOf (before : Wire × Wire) (e : Event) : Option Edge :=
  match e with
  | .micro (.scl true) _ _ => if before.1 = .level false then some .rise else none
  | .micro (.scl false) _ _ => if before.1 = .level true then some .fall else none
  | _ => none

/-- The clock edges of a list of events, in order. -/
def edges (before : Wire × Wire) (es : List Event) : List Edge :=
  match es with
  | [] => []
  | e :: es => (edgeOf before e).toList ++ edges (wiresAfter before e) es

/-- The clock pulses of a list of edges: a rising edge followed by the next falling edge (R66). -/
def pulses (gs : List Edge) : Nat :=
  match gs with
  | .rise :: gs => (if .fall ∈ gs then 1 else 0) + pulses gs
  | .fall :: gs => pulses gs
  | [] => 0

/-- The data wire at each rising clock edge, at the moment its `SetSCL(1)` is performed (R66). -/
def dataAtRises (before : Wire × Wire) (es : List Event) : List Wire :=
  match es with
  | [] => []
  | e :: es =>
    (if edgeOf before e = some .rise then [(wiresAfter before e).2] else []) ++
      dataAtRises (wiresAfter before e) es

/-- The rising edges, falling edges and pulses of a command entered with the clock high or low
(R67, R191). -/
def clockEdges (i : Instr) (high : Bool) : Nat × Nat × Nat :=
  match i with
  | .i2cStart => if high then (0, 1, 0) else (1, 1, 1)
  | .i2cWrite _ => if high then (8, 9, 8) else (9, 9, 9)
  | .i2cRead _ => if high then (8, 9, 8) else (9, 9, 9)
  | .i2cStop => if high then (0, 0, 0) else (1, 0, 0)
  | .shtStart => if high then (1, 2, 1) else (2, 2, 2)
  | .shtCmd _ => if high then (9, 10, 9) else (9, 9, 9)
  | .shtRead16 => if high then (16, 17, 16) else (17, 17, 17)

/-- The two wires of a state. -/
def wires (s : State) : Wire × Wire := (sclWire s, sdaWire s)

/-! ## The traces the command rules give (95_test_vectors.md) -/

/-- I2C_START: `OD D1 W10 C1 W10 D0 W10 C0` (R120). -/
def startTrace : List TraceOp :=
  [.od, .sda true, .wait .us10, .scl true, .wait .us10, .sda false, .wait .us10, .scl false]

/-- I2C_WRITE: eight data slots, most significant bit first, then the acknowledge slot (R121). -/
def writeTrace (byte : Byte) (ack : Level) : List TraceOp :=
  ([7, 6, 5, 4, 3, 2, 1, 0].flatMap fun k =>
    [.sda (byte.getLsbD k), .wait .us2, .scl true, .wait .us5, .scl false, .wait .us2]) ++
  [.sda true, .wait .us2, .scl true, .wait .us5, .sample ack, .scl false, .wait .us10]

/-- I2C_READ: release, eight data slots, then the master's acknowledge slot (R122). -/
def readTrace (sendAck : Bool) (samples : List Level) : List TraceOp :=
  [.sda true, .wait .us2] ++
  (samples.flatMap fun v =>
    [.wait .us2, .scl true, .wait .us5, .sample v, .scl false, .wait .us2]) ++
  [.sda (!sendAck), .wait .us2, .scl true, .wait .us5, .scl false, .wait .us2, .sda true, .wait .us10]

/-- I2C_STOP: `D0 W10 C1 W10 D1 W10` (R123). -/
def stopTrace : List TraceOp :=
  [.sda false, .wait .us10, .scl true, .wait .us10, .sda true, .wait .us10]

/-- SHT_START: `Zo D1 C1 D0 C0 C1 D1 C0` (R141). -/
def shtStartTrace : List TraceOp :=
  [.dir .out, .sda true, .scl true, .sda false, .scl false, .scl true, .sda true, .scl false]

/-- The part of SHT_CMD before its first spin (R142). -/
def shtCmdBitsTrace (byte : Byte) : List TraceOp :=
  ([7, 6, 5, 4, 3, 2, 1, 0].flatMap fun k =>
    [.scl false, .sda (byte.getLsbD k), .wait .us2, .scl true, .wait .us5]) ++
  [.scl false, .dir .inp]

/-- The samples of a spin of `n` samples that ends when the level differs from `v` (R106). -/
def spinTrace (v : Level) (n : Nat) : List TraceOp :=
  List.replicate (n - 1) (.sample v) ++ [.sample (!v)]

/-- SHT_CMD whose spins take `n1`, `n2` and `n3` samples (R142). -/
def shtCmdTrace (byte : Byte) (n1 n2 n3 : Nat) : List TraceOp :=
  shtCmdBitsTrace byte ++ spinTrace true n1 ++ [.scl true, .scl false] ++
    spinTrace false n2 ++ spinTrace true n3

/-- One data pulse of SHT_READ16 (R143). -/
def shtReadPulseTrace (v : Level) : List TraceOp :=
  [.wait .us2, .scl true, .wait .us5, .sample v, .scl false]

/-- SHT_READ16: the first byte, the acknowledge pulse, the second byte (R143). -/
def shtReadTrace (first second : List Level) : List TraceOp :=
  [.dir .inp] ++ first.flatMap shtReadPulseTrace ++
  [.dir .out, .sda false, .wait .us2, .scl true, .wait .us5, .scl false, .dir .inp] ++
  second.flatMap shtReadPulseTrace

/-! ## What a run did -/

/-- A move of the engine or of the environment on the bus: no response and no reset. -/
def onBus (e : Event) : Bool :=
  match e with
  | .micro _ _ _ => true
  | .pull _ _ _ => true
  | .reset _ _ => false
  | .response _ => false

/-- From `s` to `u` the record gained these events, oldest first, all of them moves on the bus, and
then this one response. -/
def Answered (s u : State) (es : List Event) (r : Response) : Prop :=
  u.log = .response r :: (es.reverse ++ s.log) ∧ ∀ e ∈ es, onBus e = true

/-- From `s` to `u` the engine performed exactly these micro-operations, in this order, and then
there was this one response (R58, R174). -/
def Recorded (s u : State) (ops : List TraceOp) (r : Response) : Prop :=
  ∃ es, Answered s u es r ∧ opsOf es = ops

/-- The state just after a completion with this response (10_state.md R33). -/
def Completed (u : State) (r : Response) : Prop :=
  u.busy = false ∧ u.upc = 0 ∧ u.rspValid = true ∧ u.result = r.data ∧ u.ackf = r.ack ∧ u.err = r.err

/-- The response (0, 0, OK) of a command that returns nothing (30_encoding.md R89). -/
def okResponse : Response := { data := 0, ack := false, err := .ok }

/-- The four pin latches are the same (10_state.md R20, items 1 to 4). -/
def SamePins (s t : State) : Prop :=
  t.sclLat = s.sclLat ∧ t.sdaLat = s.sdaLat ∧ t.sdaDir = s.sdaDir ∧ t.odEn = s.odEn

/-- The three response latches are the same (10_state.md R20, items 7 to 9). -/
def SameResponse (s t : State) : Prop := t.result = s.result ∧ t.ackf = s.ackf ∧ t.err = s.err

/-- What is not TA2W's own is the same: the parameter, the environment and the host's moves. -/
def SameOutside (s t : State) : Prop :=
  t.spinLimit = s.spinLimit ∧ t.pSda = s.pSda ∧ t.env = s.env ∧ t.host = s.host

/-- All fifteen items of state, and the strobe, at their reset values (10_state.md R39). -/
def ItemsAtReset (t : State) : Prop :=
  t.sclLat = true ∧ t.sdaLat = true ∧ t.sdaDir = .out ∧ t.odEn = false ∧ t.txsr = 0 ∧ t.acc = 0 ∧
  t.result = 0 ∧ t.ackf = false ∧ t.err = .ok ∧ t.busy = false ∧ t.curOp = 0 ∧ t.curArg = 0 ∧
  t.upc = 0 ∧ t.spinCnt = 0 ∧ t.dlyCnt = 0 ∧ t.rspValid = false

/-- The engine's data output is pushed high, not released: the one pin state in which a sample can
meet contention (20_memory.md R55 d). -/
def PushesHigh (s : State) : Prop := s.sdaDir = .out ∧ s.odEn = false

/-- What the outside can see of an outcome: the pins, BUSY, rsp_valid and the record. -/
def observe (o : Host.Outcome State Fault Refusal) :
    Option (Level × Level × Dir × Bool × Bool × Bool × List Event) :=
  match o with
  | .next s => some (s.sclLat, s.sdaLat, s.sdaDir, s.odEn, s.busy, s.rspValid, s.log)
  | _ => none

/-! ## The end of a run (60_exceptions.md R174) -/

/-- The word a host's move offers. -/
def wordOf (m : HostMove) : Option Word :=
  match m with
  | .issue w => some w
  | _ => none

/-- The program among the host's moves: the words it still has to offer, in order. -/
def programOf (ms : List HostMove) : List Word := ms.filterMap wordOf

/-- The run of `k` steps from `s` to `t` is a complete run of the program: every word has been
accepted, the last command has completed and BUSY = 0 (R174). It starts idle, and no reset is asked
for in it (assumption 24). -/
def CompleteRun (program : List Word) (k : Nat) (s t : State) : Prop :=
  s.busy = false ∧ NoReset s ∧ programOf s.host = program ∧ runSteps k s = .next t ∧
  programOf t.host = [] ∧ t.busy = false

/-- What the record gained from `s` to `t`, oldest first. -/
def newEvents (s t : State) : List Event := (t.log.take (t.log.length - s.log.length)).reverse

/-- The observable outcome of a run: the responses, the trace and the final pin state (R174). -/
structure RunOutcome where
  responses : List Response
  trace     : List TraceOp
  sclLat    : Level
  sdaLat    : Level
  sdaDir    : Dir
  odEn      : Bool
deriving DecidableEq, Repr

/-- The observable outcome of the run from `s` to `t`. -/
def outcomeOf (s t : State) : RunOutcome where
  responses := responsesOf (newEvents s t)
  trace := opsOf (newEvents s t)
  sclLat := t.sclLat
  sdaLat := t.sdaLat
  sdaDir := t.sdaDir
  odEn := t.odEn

/-! ## Invariants -/

/-- What the sequencer runs for each command: `exec` is `runCommand` of it. -/
def commandOf (i : Instr) : Command :=
  match i with
  | .i2cStart => i2cStartCommand
  | .i2cWrite byte => i2cWriteCommand byte
  | .i2cRead sendAck => i2cReadCommand sendAck
  | .i2cStop => i2cStopCommand
  | .shtStart => shtStartCommand
  | .shtCmd byte => shtCmdCommand byte
  | .shtRead16 => shtRead16Command

/-- The sequencer is where R35 says it can be: idle with UPC = 0, or busy with a command latched
and UPC inside its micro-program. -/
def SequencerOk (s : State) : Prop :=
  (s.busy = false → s.upc = 0) ∧
  (s.busy = true → ∃ i, currentInstr s = some i ∧ s.upc.toNat < (commandOf i).program.length)

/-- What a stretch of a micro-program has made of the pin latches and of TXSR: `none` where it has
not written the latch yet. -/
structure Pins where
  scl : Option Level
  sda : Option Level
  dir : Option Dir
  tx  : Byte
deriving DecidableEq, Repr

/-- One micro-operation's effect on them. -/
def Pins.after (p : Pins) (m : MicroOp) : Pins :=
  match m with
  | .setScl v => { p with scl := some v }
  | .setSda (.const v) => { p with sda := some v }
  | .setSda .txMsb => { p with sda := some (p.tx.getLsbD 7) }
  | .setDir d => { p with dir := some d }
  | .waitShift _ => { p with tx := shiftTx p.tx }
  | _ => p

/-- The pins after the first `k` entries of the command's micro-program. -/
def pinsAt (i : Instr) (k : Nat) : Pins :=
  ((commandOf i).program.take k).foldl Pins.after
    { scl := none, sda := none, dir := none, tx := argOf i }

/-- The machine's latches are what the micro-program has made of them so far. -/
def FollowsProgram (i : Instr) (s : State) : Prop :=
  (∀ v, (pinsAt i s.upc.toNat).scl = some v → s.sclLat = v) ∧
  (∀ v, (pinsAt i s.upc.toNat).sda = some v → s.sdaLat = v) ∧
  (∀ d, (pinsAt i s.upc.toNat).dir = some d → s.sdaDir = d) ∧
  ((commandOf i).init = .loadTxsr (argOf i) → s.txsr = (pinsAt i s.upc.toNat).tx)

/-- The pin invariant: the sequencer is sound; inside a command the latches follow its
micro-program; at a command boundary the pair (SCL_LAT, SDA_LAT) is never (1, 0) (10_state.md R38). -/
def PinsOk (s : State) : Prop :=
  SequencerOk s ∧
  (s.busy = false → ¬(s.sclLat = true ∧ s.sdaLat = false)) ∧
  (∀ i, s.busy = true → currentInstr s = some i → FollowsProgram i s)

end Sys2Proof.Machine
end

