-- ==== Sys2Proof/Certificates/Slice0/Obligations.lean ====
section
/-! DEFINITION. The statements about TA2W for the provers. Where a statement speaks of a command's run,
`exec i s` is its acceptance by an idle machine and the engine's steps follow (10_state.md R42). -/

open Sys2Proof Sys2Proof.Machine

/-! ## Encoding (spec/30_encoding.md) -/

/-- decode(encode(c)) = c for all seven forms with every operand, and no other word decodes (R83). -/
def Obligations.DecodeEncodeRoundTrip : Prop :=
  (∀ i, decode (encode i) = .ok i) ∧ (∀ w i, decode w = .ok i → w = encode i)

/-- R83: a word is the command of a row exactly when it agrees with the row's pattern under its
mask, the rows are disjoint, a word no row covers is illegal, the decode function is the one listed,
518 words are legal. -/
def Obligations.OpcodeTableDecodes : Prop :=
  (∀ w, ∀ r ∈ rows, (r.covers w = true ↔ ∃ i, decode w = .ok i ∧ mnemonicOf i = r.mnemonic)) ∧
  (∀ w, (∃ e, decode w = .error e) ↔ ∀ r ∈ rows, r.covers w = false) ∧
  (∀ w, ∀ r ∈ rows, ∀ r' ∈ rows, r.covers w = true → r'.covers w = true → r = r') ∧
  (∀ w : Word,
    (decode w = .ok .i2cStart ↔ w = 0x0100) ∧
    (∀ b, decode w = .ok (.i2cWrite b) ↔ w.extractLsb' 8 8 = 2 ∧ w.extractLsb' 0 8 = b) ∧
    (∀ a, decode w = .ok (.i2cRead a) ↔ w.extractLsb' 1 15 = 0x180 ∧ w.getLsbD 0 = a) ∧
    (decode w = .ok .i2cStop ↔ w = 0x0400) ∧
    (decode w = .ok .shtStart ↔ w = 0x0500) ∧
    (∀ b, decode w = .ok (.shtCmd b) ↔ w.extractLsb' 8 8 = 6 ∧ w.extractLsb' 0 8 = b) ∧
    (decode w = .ok .shtRead16 ↔ w = 0x0700)) ∧
  (List.range 65536).countP (fun n => (decode? (BitVec.ofNat 16 n)).isSome) = 518 ∧
  (∀ i, decode (encode i) = .ok i) ∧ (∀ w i, decode w = .ok i → encode i = w)

/-- The causes R84 lists are exactly what makes a word illegal. -/
def Obligations.IllegalWordCauses : Prop :=
  ∀ w : Word, (∃ e, decode w = .error e) ↔
    (w.extractLsb' 8 3 = 0 ∨ w.extractLsb' 11 5 ≠ 0 ∨
      (w.extractLsb' 0 8 ≠ 0 ∧ (w.extractLsb' 8 3 = 1 ∨ w.extractLsb' 8 3 = 4 ∨
        w.extractLsb' 8 3 = 5 ∨ w.extractLsb' 8 3 = 7)) ∨
      (w.extractLsb' 1 7 ≠ 0 ∧ w.extractLsb' 8 3 = 3))

/-- A few words written out from the table decode to the command they stand for. -/
def Obligations.WrittenWordsDecode : Prop :=
  decode 0b0000000100000000 = .ok .i2cStart ∧
  decode 0b0000001010100101 = .ok (.i2cWrite 0xA5) ∧
  decode 0b0000001100000001 = .ok (.i2cRead true) ∧
  decode 0b0000010000000000 = .ok .i2cStop ∧
  decode 0b0000010100000000 = .ok .shtStart ∧
  decode 0b0000011000000101 = .ok (.shtCmd 0x05) ∧
  decode 0b0000011100000000 = .ok .shtRead16 ∧
  decode 0b0000101000000000 = .error .reservedBits ∧
  decode 0b0000000010100101 = .error .opUnassigned

/-! ## The wires (spec/20_memory.md) -/

/-- R51: the engine's contribution to each wire from the pin state, and the pads. -/
def Obligations.DriveFollowsPinState : Prop :=
  ∀ s : State,
    driveScl s = (if s.odEn = true then (if s.sclLat = false then .low else .released)
      else (if s.sclLat = false then .low else .high)) ∧
    driveSda s = (if s.sdaDir = .inp then .released
      else if s.odEn = true then (if s.sdaLat = false then .low else .released)
      else (if s.sdaLat = false then .low else .high)) ∧
    padPorts s = (decide (driveScl s ≠ .released), decide (driveScl s = .high),
      decide (driveSda s ≠ .released), decide (driveSda s = .high))

/-- R52's table: low if anyone pulls low, high otherwise, but for push-pull high against a low. That
the clock wire resolves with no peripheral's contribution is R57, the spec's assumption about the
platform (assumption 14, DEDUCED, unsafe). -/
def Obligations.WireResolution : Prop :=
  resolve .low .released = .level false ∧ resolve .low .low = .level false ∧
  resolve .released .low = .level false ∧ resolve .released .released = .level true ∧
  resolve .high .released = .level true ∧ resolve .high .low = .contention ∧
  (∀ s, sdaWire s = resolve (driveSda s) s.pSda) ∧
  (∀ s, sclWire s = resolve (driveScl s) .released)

/-- R55 (an inference the spec marks as its own): what a sample returns by pin state. Case (d) with a
peripheral pulling low is the free value of assumption 3; the statement holds for every value of it. -/
def Obligations.SampleByPinState : Prop :=
  ∀ s : State,
    (s.sdaDir = .inp → sampledLevel s = pullLevel s.pSda) ∧
    (s.sdaDir = .out → s.sdaLat = false → sampledLevel s = false) ∧
    (s.sdaDir = .out → s.sdaLat = true → s.odEn = true → sampledLevel s = pullLevel s.pSda) ∧
    (s.sdaDir = .out → s.sdaLat = true → s.odEn = false → s.pSda = .released →
      sampledLevel s = true) ∧
    (s.sdaDir = .out → s.sdaLat = true → s.odEn = false → s.pSda = .low →
      sdaWire s = .contention ∧ sampledLevel s = Config.contendedSample s.draws ∧
      (countDraw s).draws = s.draws + 1)

/-- R52, R55 d: the data wire is contended exactly when data is an output pushed high against a pull,
so with open-drain on no step draws a free value (assumption 3). -/
def Obligations.ContentionNeedsPushPull : Prop :=
  (∀ s : State, Contended s ↔ PushesHigh s ∧ s.sdaLat = true ∧ s.pSda = .low) ∧
  (∀ s t : State, s.odEn = true → step s = .next t → t.draws = s.draws)

/-- R40: the host ports show BUSY and the response latches, ERR by its code, of which 3 is none. -/
def Obligations.PortsShowTheLatches : Prop :=
  ∀ s : State,
    cmdReady s = !s.busy ∧ (cmdValid s = true ↔ ∃ w rest, s.host = .issue w :: rest) ∧
    responsePorts s = (s.result, s.ackf,
      match s.err with
      | .ok => 0
      | .illegalCmd => 1
      | .spinTimeout => 2) ∧
    (responsePorts s).2.2 ≠ 3

/-! ## The micro-operations (spec/40_line_and_delay_primitives.md) -/

/-- R100: SetSCL writes the clock latch and nothing else; the wire follows at once; no error. -/
def Obligations.SetSclWritesTheClockLatch : Prop :=
  ∀ (v : Level) (s : State),
    perform (.setScl v) s =
      { s with sclLat := v, log := .micro (.scl v) (.level v) (sdaWire s) :: s.log } ∧
    flowOf (.setScl v) s = .advance ∧
    (s.odEn = true → driveScl (perform (.setScl v) s) = if v then .released else .low) ∧
    (s.odEn = false → driveScl (perform (.setScl v) s) = if v then .high else .low)

/-- R101: SetSDA writes the data latch and nothing else; the wire follows only while an output. -/
def Obligations.SetSdaWritesTheDataLatch : Prop :=
  ∀ (v : Level) (s : State),
    perform (.setSda (.const v)) s =
      { s with sdaLat := v, log := .micro (.sda v) (sclWire s) (sdaWire { s with sdaLat := v }) :: s.log } ∧
    flowOf (.setSda (.const v)) s = .advance ∧
    (s.sdaDir = .inp → sdaWire (perform (.setSda (.const v)) s) = sdaWire s) ∧
    (s.sdaDir = .out → driveSda (perform (.setSda (.const v)) s) =
      if v then (if s.odEn then .released else .high) else .low)

/-- R102: SetDir writes the direction and nothing else; IN releases the wire, OUT puts the stored
latch on it; only the SHT15 commands perform it. -/
def Obligations.SetDirWritesTheDirection : Prop :=
  (∀ (d : Dir) (s : State),
    perform (.setDir d) s =
      { s with sdaDir := d, log := .micro (.dir d) (sclWire s) (sdaWire { s with sdaDir := d }) :: s.log } ∧
    flowOf (.setDir d) s = .advance) ∧
  (∀ s : State, driveSda (perform (.setDir .inp) s) = .released ∧
    driveSda (perform (.setDir .out) s) = if s.sdaLat then (if s.odEn then .released else .high) else .low) ∧
  (∀ (i : Instr) (d : Dir), .setDir d ∈ (commandOf i).program →
    i = .shtStart ∨ (∃ b, i = .shtCmd b) ∨ i = .shtRead16)

/-- R103: SetOD turns open-drain on and nothing else; a driven high becomes a release, and
contention becomes 0; it is the first micro-operation of I2C_START and occurs nowhere else. -/
def Obligations.SetOdReleasesDrivenHighs : Prop :=
  (∀ s : State,
    perform .setOd s = { s with
      odEn := true, log := .micro .od (.level s.sclLat) (sdaWire { s with odEn := true }) :: s.log } ∧
    flowOf .setOd s = .advance ∧
    (driveSda s = .high → driveSda (perform .setOd s) = .released ∧
      sdaWire (perform .setOd s) = .level (pullLevel s.pSda)) ∧
    (driveScl s = .high → driveScl (perform .setOd s) = .released ∧
      sclWire (perform .setOd s) = .level true) ∧
    (sdaWire s = .contention → sdaWire (perform .setOd s) = .level false)) ∧
  (∀ (m : MicroOp) (s : State), s.odEn = true → (perform m s).odEn = true) ∧
  (∀ (i : Instr) (k : Nat), (commandOf i).program[k]? = some .setOd ↔ i = .i2cStart ∧ k = 0)

/-- A Wait changes no line and no register but DLY_CNT, which has counted down when the step is
over; the shift of TXSR that rides on one is the other form. -/
def Obligations.WaitChangesNoLine : Prop :=
  ∀ (d : Delay) (s : State),
    perform (.wait d) s =
      { s with dlyCnt := 0, log := .micro (.wait d) (sclWire s) (sdaWire s) :: s.log } ∧
    perform (.waitShift d) s =
      { s with dlyCnt := 0, txsr := s.txsr <<< 1, log := .micro (.wait d) (sclWire s) (sdaWire s) :: s.log } ∧
    flowOf (.wait d) s = .advance ∧ flowOf (.waitShift d) s = .advance

/-- A spin takes one sample a step, which it counts and leaves on the record, ends at the first that
differs from `v`, tests that before the limit, aborts when the limit's number of samples has been
taken, and writes no pin. -/
def Obligations.SpinSamplesUntilTheLevelChanges : Prop :=
  ∀ (v : Level) (s : State),
    perform (.spinWhile v) s =
      { countDraw s with
        spinCnt := s.spinCnt + 1,
        log := .micro (.sample (sampledLevel s)) (sclWire s) (sdaWire s) :: s.log } ∧
    SamePins s (perform (.spinWhile v) s) ∧
    (sampledLevel s ≠ v → flowOf (.spinWhile v) s = .advance) ∧
    (sampledLevel s = v → s.spinLimit = .unlimited → flowOf (.spinWhile v) s = .stay) ∧
    (∀ n, sampledLevel s = v → s.spinLimit = .samples n →
      flowOf (.spinWhile v) s = if s.spinCnt + 1 = n then .abort .spinTimeout else .stay) ∧
    (∀ i w, .spinWhile w ∈ (commandOf i).program → ∃ b, i = .shtCmd b)

/-! ## Arithmetic (R107 to R109) -/

/-- The transmit shift: after k shifts of b, (b * 2^k) mod 256, and the bit sent is b[7-k]. -/
def Obligations.TransmitShiftSendsMsbFirst : Prop :=
  (∀ (b : Byte) (k : Nat), (shiftTx^[k] b).toNat = b.toNat * 2 ^ k % 256) ∧
  (∀ (b : Byte) (k : Nat), k < 8 → (shiftTx^[k] b).getLsbD 7 = b.getLsbD (7 - k)) ∧
  (∀ b : Byte, shiftTx^[8] b = 0)

/-- R108: shift, then OR; the OR is an addition; from 0, k samples give their binary number, for
k <= 16; I2C_READ accumulates 8 times and SHT_READ16 16 times. -/
def Obligations.ReceiveAccumulateIsBinary : Prop :=
  (∀ (a : Word) (v : Level), accumulate a v = (a <<< 1 ||| if v then 1 else 0) ∧
    accumulate a v = a <<< 1 + if v then 1 else 0) ∧
  (∀ vs : List Level, vs.length ≤ 16 →
    (vs.foldl accumulate 0).toNat = vs.foldl (fun n v => 2 * n + if v then 1 else 0) 0) ∧
  (∀ vs : List Level, vs.length = 8 → (vs.foldl accumulate 0).toNat < 256) ∧
  (∀ i, (commandOf i).program.count .sampleAcc =
    match i with
    | .i2cRead _ => 8
    | .shtRead16 => 16
    | _ => 0)

/-- R109: the acknowledge is NOT of the sample; only I2C_WRITE inverts one; a spin compares the raw
level and an accumulate takes it. -/
def Obligations.AcknowledgeInvertsTheSample : Prop :=
  ackOf false = true ∧ ackOf true = false ∧
  (∀ s : State, (perform .sampleAck s).ack = !sampledLevel s) ∧
  (∀ i, .sampleAck ∈ (commandOf i).program → ∃ b, i = .i2cWrite b) ∧
  (∀ (v : Level) (s : State), flowOf (.spinWhile v) s = .advance ↔ sampledLevel s ≠ v) ∧
  (∀ s : State, (perform .sampleAcc s).acc = accumulate s.acc (sampledLevel s))

/-! ## Acceptance, completion, reset -/

/-- R42: a step of an idle machine whose host offers a word that decodes to `i` is `exec i`; a step of
a busy machine is `exec` of the command latched. That the environment moves first, and the host's
wait with the engine, is the model's choice (assumption 17). So is the third clause, about
`withFetchWord`, which stands for the host's loading of one word (assumption 18). -/
def Obligations.StepRunsTheDecodedCommand : Prop :=
  (∀ (s : State) (w : Word) (rest : List HostMove) (i : Instr), s.busy = false →
    s.host = .issue w :: rest → decode w = .ok i → step s = exec i { tick s with host := rest }) ∧
  (∀ (s : State) (i : Instr), s.busy = true → (∀ rest, s.host ≠ .reset :: rest) →
    currentInstr s = some i → step s = exec i (hostWait (tick s))) ∧
  (∀ (s : State) (w : Nat) (i : Instr), decodeTableWord 16 w = some i →
    step (s.withFetchWord 16 w) = exec i { tick s with busy := false, host := s.host })

/-- R114, with acceptance's part of R41: every command an idle machine is offered is accepted: BUSY,
CUR_OP, CUR_ARG and UPC are set, the working register it uses is initialised, and nothing else
changes but SPIN_CNT; a command reads no working register it has not initialised so. -/
def Obligations.AcceptanceLatchesTheCommand : Prop :=
  (∀ i : Instr,
    ((.setSda .txMsb ∈ (commandOf i).program ∨ ∃ d, .waitShift d ∈ (commandOf i).program) →
      (∃ b, i = .i2cWrite b) ∨ ∃ b, i = .shtCmd b) ∧
    ((.sampleAcc ∈ (commandOf i).program ∨ (commandOf i).reply = .accLow ∨ (commandOf i).reply = .accFull) →
      (∃ a, i = .i2cRead a) ∨ i = .shtRead16)) ∧
  ∀ (i : Instr) (s : State), s.busy = false → ∃ t, exec i s = .next t ∧
    t.busy = true ∧ t.curOp = opOf i ∧ t.curArg = argOf i ∧ t.upc = 0 ∧
    t.txsr = (match i with
      | .i2cWrite b => b
      | .shtCmd b => b
      | _ => s.txsr) ∧
    t.acc = (match i with
      | .i2cRead _ => 0
      | .shtRead16 => 0
      | _ => s.acc) ∧
    SamePins s t ∧ SameResponse s t ∧ SameOutside s t ∧ t.ack = s.ack ∧ t.log = s.log ∧
    t.rspValid = s.rspValid ∧ t.draws = s.draws ∧ t.dlyCnt = s.dlyCnt

/-- An illegal word offered to an idle machine is consumed in that step with (0, 0, ILLEGAL_CMD); no
micro-operation is performed, no pin and no working register changes. The model takes the hardware's
reaction as the word's effect; R84 advises refusing such programs (assumption 5). -/
def Obligations.IllegalWordIsConsumed : Prop :=
  ∀ (s : State) (w : Word) (rest : List HostMove) (e : DecodeError), s.busy = false →
    s.host = .issue w :: rest → decode w = .error e →
    ∃ t, step s = .next t ∧ Completed t { data := 0, ack := false, err := .illegalCmd } ∧
      SamePins s t ∧ t.txsr = s.txsr ∧ t.acc = s.acc ∧ t.host = rest ∧
      t.curOp = s.curOp ∧ t.curArg = s.curArg ∧
      t.log = .response { data := 0, ack := false, err := .illegalCmd } :: (envMove s).log

/-- R41, R166: while BUSY = 1 the offered word is not looked at: whatever words the host holds, the
step does the same, and the words stay held. -/
def Obligations.BusyIgnoresTheOfferedWord : Prop :=
  ∀ (s t : State) (w w' : Word) (rest rest' : List HostMove), s.busy = true →
    step { s with host := .issue w :: rest } = .next t →
    t.host = .issue w :: rest ∧
    step { s with host := .issue w' :: rest' } = .next { t with host := .issue w' :: rest' }

/-- R180, R181: a reset wins over the command in progress and over the host's word: every item
takes its reset value, there is no response, and the record gets only a marker. -/
def Obligations.ResetWinsOverEverything : Prop :=
  ∀ (s : State) (rest : List HostMove), s.host = .reset :: rest →
    ∃ t, step s = .next t ∧ ItemsAtReset t ∧ t.host = rest ∧
      t.log = .reset (sclWire t) (sdaWire t) :: (envMove s).log ∧
      t.spinLimit = s.spinLimit

/-- R39: the state after reset, and the wires with no peripheral pulling low. -/
def Obligations.ResetValues : Prop :=
  ItemsAtReset State.reset ∧
  sclWire State.reset = .level true ∧
  sdaWire { State.reset with pSda := .released } = .level true

/-- An idle machine that is offered nothing keeps every item of state; rsp_valid falls. -/
def Obligations.IdleMachineHoldsItsLines : Prop :=
  ∀ (s : State), s.busy = false → (s.host = [] ∨ ∃ rest, s.host = .wait :: rest) →
    ∃ t, step s = .next t ∧ t.rspValid = false ∧ SamePins s t ∧ SameResponse s t ∧ t.txsr = s.txsr ∧
      t.acc = s.acc ∧ t.busy = false ∧ t.curOp = s.curOp ∧ t.curArg = s.curArg ∧ t.upc = s.upc ∧
      t.spinCnt = s.spinCnt ∧ t.dlyCnt = s.dlyCnt ∧ t.log = (envMove s).log

/-- R33: when a busy machine's command ends, it does so with its last micro-operation or with an
abort; the latches take the response, BUSY and UPC go to 0, the strobe is 1, and completion itself
touches no line. -/
def Obligations.CompletionWritesTheResponse : Prop :=
  ∀ (i : Instr) (s t : State), s.busy = true → exec i s = .next t → t.busy = false →
    ∃ m r, (commandOf i).program[s.upc.toNat]? = some m ∧ Completed t r ∧
      SamePins (perform m s) t ∧ t.log = .response r :: (perform m s).log ∧
      ((flowOf m s = .advance ∧ s.upc.toNat + 1 = (commandOf i).program.length ∧
          r.err = .ok ∧
          r.data = (match i with
            | .i2cRead _ => ((perform m s).acc.extractLsb' 0 8).setWidth 16
            | .shtRead16 => (perform m s).acc
            | _ => 0) ∧
          r.ack = (match i with
            | .i2cWrite _ => (perform m s).ack
            | _ => false)) ∨
        (flowOf m s = .abort .spinTimeout ∧ r = { data := 0, ack := false, err := .spinTimeout }))

/-- R33: rsp_valid is 1 after a step exactly when a command completed or an illegal word was consumed
in that step, so it lasts one step. -/
def Obligations.StrobeMarksTheCompletion : Prop :=
  ∀ (s t : State), step s = .next t →
    (t.rspValid = true ↔
      (∀ rest, s.host ≠ .reset :: rest) ∧
      ((s.busy = true ∧ t.busy = false) ∨
        (s.busy = false ∧ ∃ w rest e, s.host = .issue w :: rest ∧ decode w = .error e)))

/-- R29, R33, R167: the response latches change only in a step that raises rsp_valid, or by reset. -/
def Obligations.ResponseHoldsUntilTheNextCompletion : Prop :=
  ∀ (s t : State), step s = .next t →
    t.rspValid = true ∨ (∃ rest, s.host = .reset :: rest) ∨ SameResponse s t

/-- R32: BUSY rises only when a command is accepted and falls only when one completes or by reset. -/
def Obligations.BusySpansTheCommand : Prop :=
  ∀ (s t : State), step s = .next t →
    (s.busy = false → t.busy = true →
      ∃ w rest i, s.host = .issue w :: rest ∧ decode w = .ok i ∧ currentInstr t = some i ∧ t.upc = 0) ∧
    (s.busy = true → t.busy = false →
      (t.rspValid = true ∧ t.upc = 0) ∨ ∃ rest, s.host = .reset :: rest)

/-- R35, R58, R110: a step of a busy machine performs exactly one micro-operation, the one at UPC, from
the state the environment's moves and the host's leave (assumption 17): the pins and the record are
those that micro-operation leaves, with the response on top at completion. UPC goes up by 1, or stays
at a spin that samples on, or returns to 0 at completion; the command latched stays latched. -/
def Obligations.OneMicroOperationAStep : Prop :=
  ∀ (s t : State) (i : Instr), s.busy = true → (∀ rest, s.host ≠ .reset :: rest) →
    currentInstr s = some i → step s = .next t →
    ∃ m, (commandOf i).program[s.upc.toNat]? = some m ∧
      SamePins (perform m (hostWait (tick s))) t ∧
      t.curOp = s.curOp ∧ t.curArg = s.curArg ∧
      t.txsr = (perform m (hostWait (tick s))).txsr ∧ t.acc = (perform m (hostWait (tick s))).acc ∧
      ((t.busy = true ∧ t.upc.toNat = s.upc.toNat + 1 ∧
          flowOf m (hostWait (tick s)) = .advance ∧ t.log = (perform m (hostWait (tick s))).log) ∨
       (t.busy = true ∧ t.upc = s.upc ∧ isSpin (some m) = true ∧
          flowOf m (hostWait (tick s)) = .stay ∧ t.log = (perform m (hostWait (tick s))).log) ∨
       (t.busy = false ∧ t.upc = 0 ∧
          ∃ r, Completed t r ∧ t.log = .response r :: (perform m (hostWait (tick s))).log))

/-! ## The runs of the seven commands (spec/41_i2c_byte_engine.md, spec/42_sht15_engine.md) -/

/-- I2C_START from every idle state: accepted, its 8 micro-operations in order, response (0, 0, OK),
clock and data low, open-drain on; the direction and the working registers are left. -/
def Obligations.I2cStartRuns : Prop :=
  ∀ s : State, s.busy = false → NoReset s → ∃ t u, exec .i2cStart s = .next t ∧
    runSteps 8 t = .next u ∧ Completed u okResponse ∧ Recorded s u startTrace okResponse ∧
    u.sclLat = false ∧ u.sdaLat = false ∧ u.odEn = true ∧ u.sdaDir = s.sdaDir ∧
    u.txsr = s.txsr ∧ u.acc = s.acc ∧ u.spinLimit = s.spinLimit

/-- I2C_WRITE from every idle state: its 55 micro-operations, the byte most significant bit first,
ACKF = NOT the level sampled in the ninth slot. That level is the peripherals' alone unless data is
pushed high; pushed high and not pulled it is 1; pushed high and pulled it is a free value. -/
def Obligations.I2cWriteRuns : Prop :=
  ∀ (byte : Byte) (s : State), s.busy = false → NoReset s → ∃ t u v,
    exec (.i2cWrite byte) s = .next t ∧ runSteps 55 t = .next u ∧
    Completed u { data := 0, ack := !v, err := .ok } ∧
    Recorded s u (writeTrace byte v) { data := 0, ack := !v, err := .ok } ∧
    (¬(PushesHigh s ∧ pullAt s.pSda s.env 52 = .low) → v = pullLevel (pullAt s.pSda s.env 52)) ∧
    u.sclLat = false ∧ u.sdaLat = true ∧ u.sdaDir = s.sdaDir ∧ u.odEn = s.odEn ∧
    u.txsr = 0 ∧ u.acc = s.acc ∧ u.spinLimit = s.spinLimit

/-- I2C_READ from every idle state: its 58 micro-operations, RESULT = the eight samples, the first
in bit 7; sample j is the peripherals' level at step 6j + 5 unless data is pushed high against it. -/
def Obligations.I2cReadRuns : Prop :=
  ∀ (sendAck : Bool) (s : State), s.busy = false → NoReset s → ∃ t u vs r,
    exec (.i2cRead sendAck) s = .next t ∧ runSteps 58 t = .next u ∧ Completed u r ∧
    Recorded s u (readTrace sendAck vs) r ∧ r.ack = false ∧ r.err = .ok ∧ vs.length = 8 ∧
    (∀ j, j < 8 → r.data.getLsbD (7 - j) = vs.getD j false) ∧
    (∀ j, 8 ≤ j → r.data.getLsbD j = false) ∧
    (∀ j, j < 8 → ¬(PushesHigh s ∧ pullAt s.pSda s.env (6 * j + 5) = .low) →
      vs.getD j false = pullLevel (pullAt s.pSda s.env (6 * j + 5))) ∧
    u.sclLat = false ∧ u.sdaLat = true ∧ u.sdaDir = s.sdaDir ∧ u.odEn = s.odEn ∧
    u.acc = r.data ∧ u.txsr = s.txsr ∧ u.spinLimit = s.spinLimit

/-- I2C_STOP from every idle state: its 6 micro-operations, clock and data end high. -/
def Obligations.I2cStopRuns : Prop :=
  ∀ s : State, s.busy = false → NoReset s → ∃ t u, exec .i2cStop s = .next t ∧
    runSteps 6 t = .next u ∧ Completed u okResponse ∧ Recorded s u stopTrace okResponse ∧
    u.sclLat = true ∧ u.sdaLat = true ∧ u.sdaDir = s.sdaDir ∧ u.odEn = s.odEn ∧
    u.txsr = s.txsr ∧ u.acc = s.acc ∧ u.spinLimit = s.spinLimit

/-- SHT_START from every idle state: its 8 micro-operations (a direction and seven level sets, no
Wait); clock low, data high and an output; open-drain mode is left as it was. -/
def Obligations.ShtStartRuns : Prop :=
  ∀ s : State, s.busy = false → NoReset s → ∃ t u, exec .shtStart s = .next t ∧
    runSteps 8 t = .next u ∧ Completed u okResponse ∧ Recorded s u shtStartTrace okResponse ∧
    u.sclLat = false ∧ u.sdaLat = true ∧ u.sdaDir = .out ∧ u.odEn = s.odEn ∧
    u.txsr = s.txsr ∧ u.acc = s.acc ∧ u.spinLimit = s.spinLimit

/-- SHT_CMD from every idle state with a device that lets the three spins end after n1, n2 and n3
samples, within the limit if there is one: 44 + n1 + n2 + n3 micro-operations, response (0, 0, OK),
clock low, data an input, the last bit sent left in the latch. -/
def Obligations.ShtCmdRuns : Prop :=
  ∀ (byte : Byte) (s : State) (n1 n2 n3 : Nat), s.busy = false → NoReset s →
    1 ≤ n1 → 1 ≤ n2 → 1 ≤ n3 →
    (∀ n, s.spinLimit = .samples n → n1 ≤ n ∧ n2 ≤ n ∧ n3 ≤ n) →
    (∀ j, j + 1 < n1 → pullAt s.pSda s.env (42 + j) = .released) →
    pullAt s.pSda s.env (41 + n1) = .low →
    (∀ j, j + 1 < n2 → pullAt s.pSda s.env (44 + n1 + j) = .low) →
    pullAt s.pSda s.env (43 + n1 + n2) = .released →
    (∀ j, j + 1 < n3 → pullAt s.pSda s.env (44 + n1 + n2 + j) = .released) →
    pullAt s.pSda s.env (43 + n1 + n2 + n3) = .low →
    ∃ t u, exec (.shtCmd byte) s = .next t ∧ runSteps (44 + n1 + n2 + n3) t = .next u ∧
      Completed u okResponse ∧ Recorded s u (shtCmdTrace byte n1 n2 n3) okResponse ∧
      u.sclLat = false ∧ u.sdaLat = byte.getLsbD 0 ∧ u.sdaDir = .inp ∧ u.odEn = s.odEn ∧
      u.txsr = 0 ∧ u.acc = s.acc ∧ u.spinLimit = s.spinLimit

/-- SHT_READ16 from every idle state: its 88 micro-operations, RESULT = the sixteen samples, the
first in bit 15, whatever the data line does during the acknowledge pulse. -/
def Obligations.ShtRead16Runs : Prop :=
  ∀ s : State, s.busy = false → NoReset s → ∃ t u first second r,
    exec .shtRead16 s = .next t ∧ runSteps 88 t = .next u ∧ Completed u r ∧
    Recorded s u (shtReadTrace first second) r ∧ r.ack = false ∧ r.err = .ok ∧
    first.length = 8 ∧ second.length = 8 ∧
    (∀ j, j < 8 → first.getD j false = pullLevel (pullAt s.pSda s.env (5 * j + 4)) ∧
      r.data.getLsbD (15 - j) = first.getD j false) ∧
    (∀ j, j < 8 → second.getD j false = pullLevel (pullAt s.pSda s.env (5 * j + 51)) ∧
      r.data.getLsbD (7 - j) = second.getD j false) ∧
    u.sclLat = false ∧ u.sdaLat = false ∧ u.sdaDir = .inp ∧ u.odEn = s.odEn ∧
    u.acc = r.data ∧ u.txsr = s.txsr ∧ u.spinLimit = s.spinLimit

/-- R125: the four I2C commands cannot fail, block or time out: each performs its fixed number of
micro-operations (8, 55, 58, 6) and completes with ERR = OK; none looks at an earlier response. -/
def Obligations.I2cCommandsAlwaysComplete : Prop :=
  ∀ (i : Instr) (n : Nat),
    ((i = .i2cStart ∧ n = 8) ∨ (∃ b, i = .i2cWrite b ∧ n = 55) ∨ (∃ a, i = .i2cRead a ∧ n = 58) ∨
      (i = .i2cStop ∧ n = 6)) →
    ∀ (s : State) (data : Word) (ack : Bool) (err : ErrCode), s.busy = false → NoReset s →
    ∃ t u, exec i s = .next t ∧ runSteps n t = .next u ∧ u.busy = false ∧ u.rspValid = true ∧
      u.err = .ok ∧ (∀ k, k < n → ∃ v, runSteps k t = .next v ∧ v.busy = true) ∧
      ∃ t', exec i { s with result := data, ackf := ack, err := err } = .next t' ∧
        runSteps n t' = .next u

/-- R162: with a finite limit n, a spin whose first n samples never change ends SHT_CMD with
(0, 0, SPIN_TIMEOUT): here spin 1, from every idle state; no ninth clock is sent, and the pins stay
as they are, clock low and data an input. -/
def Obligations.ShtCmdTimesOut : Prop :=
  ∀ (byte : Byte) (s : State) (n : Nat), s.busy = false → NoReset s → 1 ≤ n →
    s.spinLimit = .samples n → (∀ j, j < n → pullAt s.pSda s.env (42 + j) = .released) →
    ∃ t u, exec (.shtCmd byte) s = .next t ∧ runSteps (42 + n) t = .next u ∧
      Completed u { data := 0, ack := false, err := .spinTimeout } ∧
      Recorded s u (shtCmdBitsTrace byte ++ List.replicate n (.sample true))
        { data := 0, ack := false, err := .spinTimeout } ∧
      u.sclLat = false ∧ u.sdaLat = byte.getLsbD 0 ∧ u.sdaDir = .inp ∧ u.odEn = s.odEn ∧
      u.txsr = 0 ∧ u.acc = s.acc

/-- The abort in any of the three spins, in any state: the last sample the limit allows still reads
the level the spin waits on, so the response is (0, 0, SPIN_TIMEOUT) and no pin changes. -/
def Obligations.EverySpinCanTimeOut : Prop :=
  ∀ (byte : Byte) (s : State) (v : Level), s.busy = true →
    ((s.upc = 42 ∧ v = true) ∨ (s.upc = 45 ∧ v = false) ∨ (s.upc = 46 ∧ v = true)) →
    s.spinLimit = .samples (s.spinCnt + 1) → sampledLevel s = v →
    ∃ t, exec (.shtCmd byte) s = .next t ∧
      Completed t { data := 0, ack := false, err := .spinTimeout } ∧ SamePins s t ∧
      t.txsr = s.txsr ∧ t.acc = s.acc

/-- R164, U2: with no limit and a device that never pulls data low, SHT_CMD never completes: after
any number of samples BUSY is still 1 and the command is still in its first spin. -/
def Obligations.ShtCmdHangsWithoutADevice : Prop :=
  ∀ (byte : Byte) (s : State), s.busy = false → NoReset s → QuietBus s → s.spinLimit = .unlimited →
    ∃ t, exec (.shtCmd byte) s = .next t ∧ ∀ n, ∃ u, runSteps (42 + n) t = .next u ∧
      u.busy = true ∧ u.upc = 42 ∧ u.sclLat = false ∧ u.sdaDir = .inp ∧ u.rspValid = false ∧
      SameResponse s u

/-! ## Frames -/

/-- What a move of an I2C command leaves, in every state: the direction; open-drain but for
I2C_START; TXSR but for I2C_WRITE; ACC but for I2C_READ; the response latches but at completion. -/
def Obligations.I2cFrame : Prop :=
  ∀ (i : Instr) (s t : State), exec i s = .next t →
    (i = .i2cStart ∨ (∃ b, i = .i2cWrite b) ∨ (∃ a, i = .i2cRead a) ∨ i = .i2cStop) →
    t.sdaDir = s.sdaDir ∧ SameOutside s t ∧ t.spinCnt = s.spinCnt ∧
    (i ≠ .i2cStart → t.odEn = s.odEn) ∧
    ((∀ b, i ≠ .i2cWrite b) → t.txsr = s.txsr ∧ t.ack = s.ack) ∧
    ((∀ a, i ≠ .i2cRead a) → t.acc = s.acc) ∧
    ((i = .i2cStart ∨ i = .i2cStop) → t.draws = s.draws) ∧
    (t.busy = true → SameResponse s t ∧ t.rspValid = s.rspValid) ∧
    (s.busy = true → t.curOp = s.curOp ∧ t.curArg = s.curArg)

/-- What a move of an SHT15 command leaves, in every state: open-drain; TXSR but for SHT_CMD; ACC
but for SHT_READ16; SPIN_CNT but for SHT_CMD; the response latches but at completion. -/
def Obligations.ShtFrame : Prop :=
  ∀ (i : Instr) (s t : State), exec i s = .next t →
    (i = .shtStart ∨ (∃ b, i = .shtCmd b) ∨ i = .shtRead16) →
    t.odEn = s.odEn ∧ SameOutside s t ∧ t.ack = s.ack ∧
    ((∀ b, i ≠ .shtCmd b) → t.txsr = s.txsr ∧ t.spinCnt = s.spinCnt) ∧
    (i ≠ .shtRead16 → t.acc = s.acc) ∧
    (i = .shtStart → t.draws = s.draws ∧ t.dlyCnt = s.dlyCnt) ∧
    (t.busy = true → SameResponse s t ∧ t.rspValid = s.rspValid) ∧
    (s.busy = true → t.curOp = s.curOp ∧ t.curArg = s.curArg)

/-! ## Invariants and whole-machine rules -/

/-- Every step keeps the sequencer sound: idle with UPC = 0, or busy with a command latched and UPC
inside its micro-program (R35). -/
def Obligations.StepKeepsSequencerSound : Prop :=
  ∀ s t : State, SequencerOk s → step s = .next t → SequencerOk t

/-- R38 (an inference the spec marks as its own), in inductive form: every step keeps the pin
invariant, so at no command boundary is (SCL_LAT, SDA_LAT) = (1, 0). -/
def Obligations.StepKeepsPinsFollowingTheProgram : Prop :=
  ∀ s t : State, PinsOk s → step s = .next t → PinsOk t

/-- The pin invariant, and with it the sequencer's, holds after reset. -/
def Obligations.ResetMeetsTheInvariants : Prop := PinsOk State.reset

/-- No fault: from every state with a sound sequencer a step answers a next state. -/
def Obligations.SoundSequencerNeverStops : Prop :=
  ∀ s : State, SequencerOk s → ∃ t, step s = .next t

/-- R25, R9: only I2C_START turns open-drain on, only reset turns it off, and no step changes the
spin limit. -/
def Obligations.OpenDrainIsSetByStartAndClearedByReset : Prop :=
  ∀ s t : State, step s = .next t →
    t.spinLimit = s.spinLimit ∧
    (s.odEn = true → t.odEn = true ∨ ∃ rest, s.host = .reset :: rest) ∧
    (s.odEn = false → t.odEn = true → s.busy = true ∧ currentInstr s = some .i2cStart ∧ s.upc = 0)

/-- R140: every sample of the SHT15 commands is taken with the engine contributing nothing to the
data wire, so it returns the peripherals' level alone. -/
def Obligations.ShtSamplesOnlyAReleasedLine : Prop :=
  ∀ (s : State) (i : Instr) (m : MicroOp), PinsOk s → s.busy = true → currentInstr s = some i →
    (i = .shtStart ∨ (∃ b, i = .shtCmd b) ∨ i = .shtRead16) →
    (commandOf i).program[s.upc.toNat]? = some m → (m = .sampleAcc ∨ m = .sampleAck ∨ isSpin (some m) = true) →
    driveSda s = .released ∧ sampledLevel s = pullLevel s.pSda

/-- R120 (a), E6: entered in its intended use from a command boundary on a quiet bus, I2C_START
shows exactly one START signature and no STOP signature. -/
def Obligations.StartShowsOneStartSignature : Prop :=
  ∀ s : State, s.busy = false → NoReset s → QuietBus s → IntendedUse .i2cStart s →
    ¬(s.sclLat = true ∧ s.sdaLat = false) →
    ∃ t u es, exec .i2cStart s = .next t ∧ runSteps 8 t = .next u ∧ Answered s u es okResponse ∧
      countChanges isStart (wires s) es = 1 ∧ countChanges isStop (wires s) es = 0

/-- R123, R192, E6, E7: entered from a command boundary on a quiet bus, I2C_STOP shows exactly one
STOP signature, a START signature before it only if both lines were high, and a second stop leaves
the same idle pins. -/
def Obligations.StopShowsOneStopSignature : Prop :=
  ∀ s : State, s.busy = false → NoReset s → QuietBus s → IntendedUse .i2cStop s →
    ¬(s.sclLat = true ∧ s.sdaLat = false) →
    ∃ t u es, exec .i2cStop s = .next t ∧ runSteps 6 t = .next u ∧ Answered s u es okResponse ∧
      countChanges isStop (wires s) es = 1 ∧
      countChanges isStart (wires s) es = (if s.sclLat = true then 1 else 0) ∧
      ∃ t' u', exec .i2cStop u = .next t' ∧ runSteps 6 t' = .next u' ∧ SamePins u u'

/-- R67, R191 (R67 is an inference the spec marks as its own): the rising and falling clock edges and
the clock pulses of every command, entered with the clock high or low. I2C_WRITE, I2C_READ and
SHT_READ16 entered with the clock high lack the first rising edge; SHT_CMD never does, with the spins
ending as in ShtCmdRuns. -/
def Obligations.ClockEdgesPerTransfer : Prop :=
  (∀ (i : Instr) (n : Nat),
    ((i = .i2cStart ∧ n = 8) ∨ (∃ b, i = .i2cWrite b ∧ n = 55) ∨ (∃ a, i = .i2cRead a ∧ n = 58) ∨
      (i = .i2cStop ∧ n = 6) ∨ (i = .shtStart ∧ n = 8) ∨ (i = .shtRead16 ∧ n = 88)) →
    ∀ s : State, s.busy = false → NoReset s →
    ∃ t u es r, exec i s = .next t ∧ runSteps n t = .next u ∧ Answered s u es r ∧
      ((edges (wires s) es).count .rise, (edges (wires s) es).count .fall,
        pulses (edges (wires s) es)) = clockEdges i s.sclLat) ∧
  (∀ (byte : Byte) (s : State) (n1 n2 n3 : Nat), s.busy = false → NoReset s →
    1 ≤ n1 → 1 ≤ n2 → 1 ≤ n3 →
    (∀ n, s.spinLimit = .samples n → n1 ≤ n ∧ n2 ≤ n ∧ n3 ≤ n) →
    (∀ j, j + 1 < n1 → pullAt s.pSda s.env (42 + j) = .released) →
    pullAt s.pSda s.env (41 + n1) = .low →
    (∀ j, j + 1 < n2 → pullAt s.pSda s.env (44 + n1 + j) = .low) →
    pullAt s.pSda s.env (43 + n1 + n2) = .released →
    (∀ j, j + 1 < n3 → pullAt s.pSda s.env (44 + n1 + n2 + j) = .released) →
    pullAt s.pSda s.env (43 + n1 + n2 + n3) = .low →
    ∃ t u es, exec (.shtCmd byte) s = .next t ∧ runSteps (44 + n1 + n2 + n3) t = .next u ∧
      Answered s u es okResponse ∧
      ((edges (wires s) es).count .rise, (edges (wires s) es).count .fall,
        pulses (edges (wires s) es)) = clockEdges (.shtCmd byte) s.sclLat)

/-- R121, E1: in its intended use, with nobody pulling data low at the data edges, the data wire at
the first eight rising edges of I2C_WRITE is byte[7], ..., byte[0]. -/
def Obligations.WriteShowsTheByteAtRisingEdges : Prop :=
  ∀ (byte : Byte) (s : State), s.busy = false → NoReset s → IntendedUse (.i2cWrite byte) s →
    (∀ j, j < 8 → pullAt s.pSda s.env (6 * j + 2) = .released) →
    ∃ t u es r, exec (.i2cWrite byte) s = .next t ∧ runSteps 55 t = .next u ∧ Answered s u es r ∧
      ∀ j, j < 8 → (dataAtRises (wires s) es)[j]? = some (.level (byte.getLsbD (7 - j)))

/-- R128, E3 (an inference the spec marks as its own): a peripheral that records the data wire at the
eight data edges of a write and pulls data low in the read that follows exactly where it recorded a
low gives the byte back, for every byte and either acknowledge. -/
def Obligations.EchoGivesTheByteBack : Prop :=
  ∀ (byte : Byte) (sendAck : Bool) (s : State), s.busy = false → NoReset s →
    IntendedUse (.i2cWrite byte) s →
    (∀ j, j < 8 → pullAt s.pSda s.env (6 * j + 2) = .released) →
    ∃ t u es r, exec (.i2cWrite byte) s = .next t ∧ runSteps 55 t = .next u ∧
      Answered s u es r ∧
      ((∀ j, j < 8 → (pullAt s.pSda s.env (55 + (6 * j + 5)) = .low ↔
          (dataAtRises (wires s) es)[j]? = some (.level false))) →
        ∃ t' v, exec (.i2cRead sendAck) u = .next t' ∧ runSteps 58 t' = .next v ∧
          Completed v { data := byte.setWidth 16, ack := false, err := .ok })

/-- R196: with the data line stuck low I2C_START and I2C_STOP show no signature, SHT_READ16 returns 0
and SHT_CMD without a limit stays in its second spin for ever, from every idle state; and unless data
is pushed high, where the samples are free values, every write reports an acknowledge and every read
returns 0. That a change from or to contention is no signature is assumption 23, which only a start or
a stop in push-pull mode rests on. -/
def Obligations.StuckLowLineIsSilent : Prop :=
  ∀ s : State, s.busy = false → NoReset s → StuckLow s →
    (∃ t u es, exec .i2cStart s = .next t ∧ runSteps 8 t = .next u ∧ Answered s u es okResponse ∧
      countChanges isStart (wires s) es = 0 ∧ countChanges isStop (wires s) es = 0) ∧
    (∃ t u es, exec .i2cStop s = .next t ∧ runSteps 6 t = .next u ∧ Answered s u es okResponse ∧
      countChanges isStart (wires s) es = 0 ∧ countChanges isStop (wires s) es = 0) ∧
    (¬PushesHigh s → ∀ byte, ∃ t u, exec (.i2cWrite byte) s = .next t ∧ runSteps 55 t = .next u ∧
      Completed u { data := 0, ack := true, err := .ok }) ∧
    (¬PushesHigh s → ∀ a, ∃ t u, exec (.i2cRead a) s = .next t ∧ runSteps 58 t = .next u ∧
      Completed u okResponse) ∧
    (∃ t u, exec .shtRead16 s = .next t ∧ runSteps 88 t = .next u ∧ Completed u okResponse) ∧
    (s.spinLimit = .unlimited → ∀ byte, ∃ t, exec (.shtCmd byte) s = .next t ∧
      ∀ n, ∃ u, runSteps (45 + n) t = .next u ∧ u.busy = true ∧ u.upc = 45)

/-- R37, R28, R112: nothing a later command does depends on what an earlier one left in TXSR, ACC,
the response latches or the hidden counters: two idle machines that differ only there look the same
from outside for ever. -/
def Obligations.EarlierWorkingRegistersDoNotMatter : Prop :=
  ∀ (s : State) (tx : Byte) (ac rs : Word) (af ak : Bool) (er : ErrCode) (op : BitVec 3) (ar : Byte)
    (sc dc : Nat), s.busy = false → ∀ k,
    observe (runSteps k s) = observe (runSteps k { s with
      txsr := tx, acc := ac, result := rs, ackf := af, err := er, ack := ak, curOp := op, curArg := ar,
      spinCnt := sc, dlyCnt := dc })

/-! ## Timing (spec/70_reset_and_hazards.md) -/

/-- R170, R194: the count of a delay lasts at least its microseconds, and less than one clock period
more, for every frequency in whole hertz (assumption 8: the model's choice, R9 leaves it open). -/
def Obligations.DelayCountIsTheLeastEnough : Prop :=
  ∀ (f : Nat) (d : Delay),
    delayMicros d * f ≤ delayCount f d * 1000000 ∧
    delayCount f d * 1000000 < delayMicros d * f + 1000000

/-- R193 (an inference the spec marks as its own): micro-operations, Waits and their sums. -/
def Obligations.WaitTotals : Prop :=
  ∀ i, ((commandOf i).program.length,
      (commandOf i).program.countP (fun m => decide (microWait m ≠ 0)),
      ((commandOf i).program.map microWait).sum) =
    match i with
    | .i2cStart => (8, 3, 30)
    | .i2cWrite _ => (55, 27, 89)
    | .i2cRead _ => (58, 29, 93)
    | .i2cStop => (6, 3, 30)
    | .shtStart => (8, 0, 0)
    | .shtCmd _ => (47, 16, 56)
    | .shtRead16 => (88, 34, 119)

/-- R193: a command takes at least the sum of its Waits, in cycles of clk at F_CLK_HZ, whatever that
frequency is. -/
def Obligations.CommandLastsItsWaits : Prop :=
  ∀ i, ((commandOf i).program.map microWait).sum * Config.fClkHz ≤
    ((commandOf i).program.map microCycles).sum * 1000000

/-! ## The end of a run (spec/60_exceptions.md) -/

/-- R174: a complete run of a program has exactly one response for each of its words, an illegal one
included, the last of them what the response ports still show; its outcome's pin state is the final
one; and going on after it changes nothing of its outcome. That such a run starts idle and asks for
no reset is the model's reading (assumption 24). -/
def Obligations.CompleteRunAnswersEveryWord : Prop :=
  ∀ (program : List Word) (k : Nat) (s t : State), CompleteRun program k s t →
    t.log = (newEvents s t).reverse ++ s.log ∧
    (outcomeOf s t).responses.length = program.length ∧
    (program ≠ [] → (outcomeOf s t).responses.getLast? =
      some { data := t.result, ack := t.ackf, err := t.err }) ∧
    (∀ j, ∃ u, runSteps (k + j) s = .next u ∧ CompleteRun program (k + j) s u ∧
      outcomeOf s u = outcomeOf s t)
end

