-- ==== Sys2Proof/Laws/State.lean ====
section
/-! SUPPORT. One lemma per field per named update: what it writes and what it leaves. No later proof
unfolds an update of the state. -/

namespace Sys2Proof.Machine

/-! ## record -/

@[simp] theorem record_sclLat (op : TraceOp) (s : State) : (record op s).sclLat = s.sclLat := rfl

@[simp] theorem record_sdaLat (op : TraceOp) (s : State) : (record op s).sdaLat = s.sdaLat := rfl

@[simp] theorem record_sdaDir (op : TraceOp) (s : State) : (record op s).sdaDir = s.sdaDir := rfl

@[simp] theorem record_odEn (op : TraceOp) (s : State) : (record op s).odEn = s.odEn := rfl

@[simp] theorem record_txsr (op : TraceOp) (s : State) : (record op s).txsr = s.txsr := rfl

@[simp] theorem record_acc (op : TraceOp) (s : State) : (record op s).acc = s.acc := rfl

@[simp] theorem record_result (op : TraceOp) (s : State) : (record op s).result = s.result := rfl

@[simp] theorem record_ackf (op : TraceOp) (s : State) : (record op s).ackf = s.ackf := rfl

@[simp] theorem record_err (op : TraceOp) (s : State) : (record op s).err = s.err := rfl

@[simp] theorem record_busy (op : TraceOp) (s : State) : (record op s).busy = s.busy := rfl

@[simp] theorem record_curOp (op : TraceOp) (s : State) : (record op s).curOp = s.curOp := rfl

@[simp] theorem record_curArg (op : TraceOp) (s : State) : (record op s).curArg = s.curArg := rfl

@[simp] theorem record_upc (op : TraceOp) (s : State) : (record op s).upc = s.upc := rfl

@[simp] theorem record_spinCnt (op : TraceOp) (s : State) : (record op s).spinCnt = s.spinCnt := rfl

@[simp] theorem record_dlyCnt (op : TraceOp) (s : State) : (record op s).dlyCnt = s.dlyCnt := rfl

@[simp] theorem record_rspValid (op : TraceOp) (s : State) : (record op s).rspValid = s.rspValid := rfl

@[simp] theorem record_spinLimit (op : TraceOp) (s : State) : (record op s).spinLimit = s.spinLimit := rfl

@[simp] theorem record_ack (op : TraceOp) (s : State) : (record op s).ack = s.ack := rfl

@[simp] theorem record_pSda (op : TraceOp) (s : State) : (record op s).pSda = s.pSda := rfl

@[simp] theorem record_env (op : TraceOp) (s : State) : (record op s).env = s.env := rfl

@[simp] theorem record_host (op : TraceOp) (s : State) : (record op s).host = s.host := rfl

@[simp] theorem record_draws (op : TraceOp) (s : State) : (record op s).draws = s.draws := rfl

@[simp] theorem record_log (op : TraceOp) (s : State) : (record op s).log = .micro op (sclWire s) (sdaWire s) :: s.log := rfl

/-! ## setScl (R100) -/

@[simp] theorem setScl_sclLat (v : Level) (s : State) : (setScl v s).sclLat = v := rfl

@[simp] theorem setScl_sdaLat (v : Level) (s : State) : (setScl v s).sdaLat = s.sdaLat := rfl

@[simp] theorem setScl_sdaDir (v : Level) (s : State) : (setScl v s).sdaDir = s.sdaDir := rfl

@[simp] theorem setScl_odEn (v : Level) (s : State) : (setScl v s).odEn = s.odEn := rfl

@[simp] theorem setScl_txsr (v : Level) (s : State) : (setScl v s).txsr = s.txsr := rfl

@[simp] theorem setScl_acc (v : Level) (s : State) : (setScl v s).acc = s.acc := rfl

@[simp] theorem setScl_result (v : Level) (s : State) : (setScl v s).result = s.result := rfl

@[simp] theorem setScl_ackf (v : Level) (s : State) : (setScl v s).ackf = s.ackf := rfl

@[simp] theorem setScl_err (v : Level) (s : State) : (setScl v s).err = s.err := rfl

@[simp] theorem setScl_busy (v : Level) (s : State) : (setScl v s).busy = s.busy := rfl

@[simp] theorem setScl_curOp (v : Level) (s : State) : (setScl v s).curOp = s.curOp := rfl

@[simp] theorem setScl_curArg (v : Level) (s : State) : (setScl v s).curArg = s.curArg := rfl

@[simp] theorem setScl_upc (v : Level) (s : State) : (setScl v s).upc = s.upc := rfl

@[simp] theorem setScl_spinCnt (v : Level) (s : State) : (setScl v s).spinCnt = s.spinCnt := rfl

@[simp] theorem setScl_dlyCnt (v : Level) (s : State) : (setScl v s).dlyCnt = s.dlyCnt := rfl

@[simp] theorem setScl_rspValid (v : Level) (s : State) : (setScl v s).rspValid = s.rspValid := rfl

@[simp] theorem setScl_spinLimit (v : Level) (s : State) : (setScl v s).spinLimit = s.spinLimit := rfl

@[simp] theorem setScl_ack (v : Level) (s : State) : (setScl v s).ack = s.ack := rfl

@[simp] theorem setScl_pSda (v : Level) (s : State) : (setScl v s).pSda = s.pSda := rfl

@[simp] theorem setScl_env (v : Level) (s : State) : (setScl v s).env = s.env := rfl

@[simp] theorem setScl_host (v : Level) (s : State) : (setScl v s).host = s.host := rfl

@[simp] theorem setScl_draws (v : Level) (s : State) : (setScl v s).draws = s.draws := rfl

@[simp] theorem setScl_log (v : Level) (s : State) : (setScl v s).log = .micro (.scl v) (sclWire { s with sclLat := v }) (sdaWire s) :: s.log := rfl

/-! ## setSda (R101) -/

@[simp] theorem setSda_sclLat (v : Level) (s : State) : (setSda v s).sclLat = s.sclLat := rfl

@[simp] theorem setSda_sdaLat (v : Level) (s : State) : (setSda v s).sdaLat = v := rfl

@[simp] theorem setSda_sdaDir (v : Level) (s : State) : (setSda v s).sdaDir = s.sdaDir := rfl

@[simp] theorem setSda_odEn (v : Level) (s : State) : (setSda v s).odEn = s.odEn := rfl

@[simp] theorem setSda_txsr (v : Level) (s : State) : (setSda v s).txsr = s.txsr := rfl

@[simp] theorem setSda_acc (v : Level) (s : State) : (setSda v s).acc = s.acc := rfl

@[simp] theorem setSda_result (v : Level) (s : State) : (setSda v s).result = s.result := rfl

@[simp] theorem setSda_ackf (v : Level) (s : State) : (setSda v s).ackf = s.ackf := rfl

@[simp] theorem setSda_err (v : Level) (s : State) : (setSda v s).err = s.err := rfl

@[simp] theorem setSda_busy (v : Level) (s : State) : (setSda v s).busy = s.busy := rfl

@[simp] theorem setSda_curOp (v : Level) (s : State) : (setSda v s).curOp = s.curOp := rfl

@[simp] theorem setSda_curArg (v : Level) (s : State) : (setSda v s).curArg = s.curArg := rfl

@[simp] theorem setSda_upc (v : Level) (s : State) : (setSda v s).upc = s.upc := rfl

@[simp] theorem setSda_spinCnt (v : Level) (s : State) : (setSda v s).spinCnt = s.spinCnt := rfl

@[simp] theorem setSda_dlyCnt (v : Level) (s : State) : (setSda v s).dlyCnt = s.dlyCnt := rfl

@[simp] theorem setSda_rspValid (v : Level) (s : State) : (setSda v s).rspValid = s.rspValid := rfl

@[simp] theorem setSda_spinLimit (v : Level) (s : State) : (setSda v s).spinLimit = s.spinLimit := rfl

@[simp] theorem setSda_ack (v : Level) (s : State) : (setSda v s).ack = s.ack := rfl

@[simp] theorem setSda_pSda (v : Level) (s : State) : (setSda v s).pSda = s.pSda := rfl

@[simp] theorem setSda_env (v : Level) (s : State) : (setSda v s).env = s.env := rfl

@[simp] theorem setSda_host (v : Level) (s : State) : (setSda v s).host = s.host := rfl

@[simp] theorem setSda_draws (v : Level) (s : State) : (setSda v s).draws = s.draws := rfl

@[simp] theorem setSda_log (v : Level) (s : State) : (setSda v s).log = .micro (.sda v) (sclWire s) (sdaWire { s with sdaLat := v }) :: s.log := rfl

/-! ## setDir (R102) -/

@[simp] theorem setDir_sclLat (d : Dir) (s : State) : (setDir d s).sclLat = s.sclLat := rfl

@[simp] theorem setDir_sdaLat (d : Dir) (s : State) : (setDir d s).sdaLat = s.sdaLat := rfl

@[simp] theorem setDir_sdaDir (d : Dir) (s : State) : (setDir d s).sdaDir = d := rfl

@[simp] theorem setDir_odEn (d : Dir) (s : State) : (setDir d s).odEn = s.odEn := rfl

@[simp] theorem setDir_txsr (d : Dir) (s : State) : (setDir d s).txsr = s.txsr := rfl

@[simp] theorem setDir_acc (d : Dir) (s : State) : (setDir d s).acc = s.acc := rfl

@[simp] theorem setDir_result (d : Dir) (s : State) : (setDir d s).result = s.result := rfl

@[simp] theorem setDir_ackf (d : Dir) (s : State) : (setDir d s).ackf = s.ackf := rfl

@[simp] theorem setDir_err (d : Dir) (s : State) : (setDir d s).err = s.err := rfl

@[simp] theorem setDir_busy (d : Dir) (s : State) : (setDir d s).busy = s.busy := rfl

@[simp] theorem setDir_curOp (d : Dir) (s : State) : (setDir d s).curOp = s.curOp := rfl

@[simp] theorem setDir_curArg (d : Dir) (s : State) : (setDir d s).curArg = s.curArg := rfl

@[simp] theorem setDir_upc (d : Dir) (s : State) : (setDir d s).upc = s.upc := rfl

@[simp] theorem setDir_spinCnt (d : Dir) (s : State) : (setDir d s).spinCnt = s.spinCnt := rfl

@[simp] theorem setDir_dlyCnt (d : Dir) (s : State) : (setDir d s).dlyCnt = s.dlyCnt := rfl

@[simp] theorem setDir_rspValid (d : Dir) (s : State) : (setDir d s).rspValid = s.rspValid := rfl

@[simp] theorem setDir_spinLimit (d : Dir) (s : State) : (setDir d s).spinLimit = s.spinLimit := rfl

@[simp] theorem setDir_ack (d : Dir) (s : State) : (setDir d s).ack = s.ack := rfl

@[simp] theorem setDir_pSda (d : Dir) (s : State) : (setDir d s).pSda = s.pSda := rfl

@[simp] theorem setDir_env (d : Dir) (s : State) : (setDir d s).env = s.env := rfl

@[simp] theorem setDir_host (d : Dir) (s : State) : (setDir d s).host = s.host := rfl

@[simp] theorem setDir_draws (d : Dir) (s : State) : (setDir d s).draws = s.draws := rfl

@[simp] theorem setDir_log (d : Dir) (s : State) : (setDir d s).log = .micro (.dir d) (sclWire s) (sdaWire { s with sdaDir := d }) :: s.log := rfl

/-! ## setOd (R103) -/

@[simp] theorem setOd_sclLat (s : State) : (setOd s).sclLat = s.sclLat := rfl

@[simp] theorem setOd_sdaLat (s : State) : (setOd s).sdaLat = s.sdaLat := rfl

@[simp] theorem setOd_sdaDir (s : State) : (setOd s).sdaDir = s.sdaDir := rfl

@[simp] theorem setOd_odEn (s : State) : (setOd s).odEn = true := rfl

@[simp] theorem setOd_txsr (s : State) : (setOd s).txsr = s.txsr := rfl

@[simp] theorem setOd_acc (s : State) : (setOd s).acc = s.acc := rfl

@[simp] theorem setOd_result (s : State) : (setOd s).result = s.result := rfl

@[simp] theorem setOd_ackf (s : State) : (setOd s).ackf = s.ackf := rfl

@[simp] theorem setOd_err (s : State) : (setOd s).err = s.err := rfl

@[simp] theorem setOd_busy (s : State) : (setOd s).busy = s.busy := rfl

@[simp] theorem setOd_curOp (s : State) : (setOd s).curOp = s.curOp := rfl

@[simp] theorem setOd_curArg (s : State) : (setOd s).curArg = s.curArg := rfl

@[simp] theorem setOd_upc (s : State) : (setOd s).upc = s.upc := rfl

@[simp] theorem setOd_spinCnt (s : State) : (setOd s).spinCnt = s.spinCnt := rfl

@[simp] theorem setOd_dlyCnt (s : State) : (setOd s).dlyCnt = s.dlyCnt := rfl

@[simp] theorem setOd_rspValid (s : State) : (setOd s).rspValid = s.rspValid := rfl

@[simp] theorem setOd_spinLimit (s : State) : (setOd s).spinLimit = s.spinLimit := rfl

@[simp] theorem setOd_ack (s : State) : (setOd s).ack = s.ack := rfl

@[simp] theorem setOd_pSda (s : State) : (setOd s).pSda = s.pSda := rfl

@[simp] theorem setOd_env (s : State) : (setOd s).env = s.env := rfl

@[simp] theorem setOd_host (s : State) : (setOd s).host = s.host := rfl

@[simp] theorem setOd_draws (s : State) : (setOd s).draws = s.draws := rfl

@[simp] theorem setOd_log (s : State) : (setOd s).log = .micro .od (sclWire { s with odEn := true }) (sdaWire { s with odEn := true }) :: s.log := rfl

/-! ## wait (R104) -/

@[simp] theorem wait_sclLat (d : Delay) (s : State) : (wait d s).sclLat = s.sclLat := rfl

@[simp] theorem wait_sdaLat (d : Delay) (s : State) : (wait d s).sdaLat = s.sdaLat := rfl

@[simp] theorem wait_sdaDir (d : Delay) (s : State) : (wait d s).sdaDir = s.sdaDir := rfl

@[simp] theorem wait_odEn (d : Delay) (s : State) : (wait d s).odEn = s.odEn := rfl

@[simp] theorem wait_txsr (d : Delay) (s : State) : (wait d s).txsr = s.txsr := rfl

@[simp] theorem wait_acc (d : Delay) (s : State) : (wait d s).acc = s.acc := rfl

@[simp] theorem wait_result (d : Delay) (s : State) : (wait d s).result = s.result := rfl

@[simp] theorem wait_ackf (d : Delay) (s : State) : (wait d s).ackf = s.ackf := rfl

@[simp] theorem wait_err (d : Delay) (s : State) : (wait d s).err = s.err := rfl

@[simp] theorem wait_busy (d : Delay) (s : State) : (wait d s).busy = s.busy := rfl

@[simp] theorem wait_curOp (d : Delay) (s : State) : (wait d s).curOp = s.curOp := rfl

@[simp] theorem wait_curArg (d : Delay) (s : State) : (wait d s).curArg = s.curArg := rfl

@[simp] theorem wait_upc (d : Delay) (s : State) : (wait d s).upc = s.upc := rfl

@[simp] theorem wait_spinCnt (d : Delay) (s : State) : (wait d s).spinCnt = s.spinCnt := rfl

@[simp] theorem wait_dlyCnt (d : Delay) (s : State) : (wait d s).dlyCnt = 0 := rfl

@[simp] theorem wait_rspValid (d : Delay) (s : State) : (wait d s).rspValid = s.rspValid := rfl

@[simp] theorem wait_spinLimit (d : Delay) (s : State) : (wait d s).spinLimit = s.spinLimit := rfl

@[simp] theorem wait_ack (d : Delay) (s : State) : (wait d s).ack = s.ack := rfl

@[simp] theorem wait_pSda (d : Delay) (s : State) : (wait d s).pSda = s.pSda := rfl

@[simp] theorem wait_env (d : Delay) (s : State) : (wait d s).env = s.env := rfl

@[simp] theorem wait_host (d : Delay) (s : State) : (wait d s).host = s.host := rfl

@[simp] theorem wait_draws (d : Delay) (s : State) : (wait d s).draws = s.draws := rfl

@[simp] theorem wait_log (d : Delay) (s : State) : (wait d s).log = .micro (.wait d) (sclWire s) (sdaWire s) :: s.log := rfl

/-! ## waitShift (R104, R110) -/

@[simp] theorem waitShift_sclLat (d : Delay) (s : State) : (waitShift d s).sclLat = s.sclLat := rfl

@[simp] theorem waitShift_sdaLat (d : Delay) (s : State) : (waitShift d s).sdaLat = s.sdaLat := rfl

@[simp] theorem waitShift_sdaDir (d : Delay) (s : State) : (waitShift d s).sdaDir = s.sdaDir := rfl

@[simp] theorem waitShift_odEn (d : Delay) (s : State) : (waitShift d s).odEn = s.odEn := rfl

@[simp] theorem waitShift_txsr (d : Delay) (s : State) : (waitShift d s).txsr = shiftTx s.txsr := rfl

@[simp] theorem waitShift_acc (d : Delay) (s : State) : (waitShift d s).acc = s.acc := rfl

@[simp] theorem waitShift_result (d : Delay) (s : State) : (waitShift d s).result = s.result := rfl

@[simp] theorem waitShift_ackf (d : Delay) (s : State) : (waitShift d s).ackf = s.ackf := rfl

@[simp] theorem waitShift_err (d : Delay) (s : State) : (waitShift d s).err = s.err := rfl

@[simp] theorem waitShift_busy (d : Delay) (s : State) : (waitShift d s).busy = s.busy := rfl

@[simp] theorem waitShift_curOp (d : Delay) (s : State) : (waitShift d s).curOp = s.curOp := rfl

@[simp] theorem waitShift_curArg (d : Delay) (s : State) : (waitShift d s).curArg = s.curArg := rfl

@[simp] theorem waitShift_upc (d : Delay) (s : State) : (waitShift d s).upc = s.upc := rfl

@[simp] theorem waitShift_spinCnt (d : Delay) (s : State) : (waitShift d s).spinCnt = s.spinCnt := rfl

@[simp] theorem waitShift_dlyCnt (d : Delay) (s : State) : (waitShift d s).dlyCnt = 0 := rfl

@[simp] theorem waitShift_rspValid (d : Delay) (s : State) : (waitShift d s).rspValid = s.rspValid := rfl

@[simp] theorem waitShift_spinLimit (d : Delay) (s : State) : (waitShift d s).spinLimit = s.spinLimit := rfl

@[simp] theorem waitShift_ack (d : Delay) (s : State) : (waitShift d s).ack = s.ack := rfl

@[simp] theorem waitShift_pSda (d : Delay) (s : State) : (waitShift d s).pSda = s.pSda := rfl

@[simp] theorem waitShift_env (d : Delay) (s : State) : (waitShift d s).env = s.env := rfl

@[simp] theorem waitShift_host (d : Delay) (s : State) : (waitShift d s).host = s.host := rfl

@[simp] theorem waitShift_draws (d : Delay) (s : State) : (waitShift d s).draws = s.draws := rfl

@[simp] theorem waitShift_log (d : Delay) (s : State) : (waitShift d s).log = .micro (.wait d) (sclWire s) (sdaWire s) :: s.log := rfl

/-! ## countDraw (R54): only the number of draws changes -/

@[simp] theorem countDraw_sclLat (s : State) : (countDraw s).sclLat = s.sclLat := by unfold countDraw; split <;> rfl

@[simp] theorem countDraw_sdaLat (s : State) : (countDraw s).sdaLat = s.sdaLat := by unfold countDraw; split <;> rfl

@[simp] theorem countDraw_sdaDir (s : State) : (countDraw s).sdaDir = s.sdaDir := by unfold countDraw; split <;> rfl

@[simp] theorem countDraw_odEn (s : State) : (countDraw s).odEn = s.odEn := by unfold countDraw; split <;> rfl

@[simp] theorem countDraw_txsr (s : State) : (countDraw s).txsr = s.txsr := by unfold countDraw; split <;> rfl

@[simp] theorem countDraw_acc (s : State) : (countDraw s).acc = s.acc := by unfold countDraw; split <;> rfl

@[simp] theorem countDraw_result (s : State) : (countDraw s).result = s.result := by unfold countDraw; split <;> rfl

@[simp] theorem countDraw_ackf (s : State) : (countDraw s).ackf = s.ackf := by unfold countDraw; split <;> rfl

@[simp] theorem countDraw_err (s : State) : (countDraw s).err = s.err := by unfold countDraw; split <;> rfl

@[simp] theorem countDraw_busy (s : State) : (countDraw s).busy = s.busy := by unfold countDraw; split <;> rfl

@[simp] theorem countDraw_curOp (s : State) : (countDraw s).curOp = s.curOp := by unfold countDraw; split <;> rfl

@[simp] theorem countDraw_curArg (s : State) : (countDraw s).curArg = s.curArg := by unfold countDraw; split <;> rfl

@[simp] theorem countDraw_upc (s : State) : (countDraw s).upc = s.upc := by unfold countDraw; split <;> rfl

@[simp] theorem countDraw_spinCnt (s : State) : (countDraw s).spinCnt = s.spinCnt := by unfold countDraw; split <;> rfl

@[simp] theorem countDraw_dlyCnt (s : State) : (countDraw s).dlyCnt = s.dlyCnt := by unfold countDraw; split <;> rfl

@[simp] theorem countDraw_rspValid (s : State) : (countDraw s).rspValid = s.rspValid := by unfold countDraw; split <;> rfl

@[simp] theorem countDraw_spinLimit (s : State) : (countDraw s).spinLimit = s.spinLimit := by unfold countDraw; split <;> rfl

@[simp] theorem countDraw_ack (s : State) : (countDraw s).ack = s.ack := by unfold countDraw; split <;> rfl

@[simp] theorem countDraw_pSda (s : State) : (countDraw s).pSda = s.pSda := by unfold countDraw; split <;> rfl

@[simp] theorem countDraw_env (s : State) : (countDraw s).env = s.env := by unfold countDraw; split <;> rfl

@[simp] theorem countDraw_host (s : State) : (countDraw s).host = s.host := by unfold countDraw; split <;> rfl

@[simp] theorem countDraw_log (s : State) : (countDraw s).log = s.log := by unfold countDraw; split <;> rfl

@[simp] theorem sclWire_countDraw (s : State) : sclWire (countDraw s) = sclWire s := by
  unfold countDraw; split <;> rfl

@[simp] theorem sdaWire_countDraw (s : State) : sdaWire (countDraw s) = sdaWire s := by
  unfold countDraw; split <;> rfl

/-! ## sampleAcc (R105) -/

@[simp] theorem sampleAcc_sclLat (s : State) : (sampleAcc s).sclLat = s.sclLat := by
  unfold sampleAcc countDraw; split <;> rfl

@[simp] theorem sampleAcc_sdaLat (s : State) : (sampleAcc s).sdaLat = s.sdaLat := by
  unfold sampleAcc countDraw; split <;> rfl

@[simp] theorem sampleAcc_sdaDir (s : State) : (sampleAcc s).sdaDir = s.sdaDir := by
  unfold sampleAcc countDraw; split <;> rfl

@[simp] theorem sampleAcc_odEn (s : State) : (sampleAcc s).odEn = s.odEn := by
  unfold sampleAcc countDraw; split <;> rfl

@[simp] theorem sampleAcc_txsr (s : State) : (sampleAcc s).txsr = s.txsr := by
  unfold sampleAcc countDraw; split <;> rfl

@[simp] theorem sampleAcc_acc (s : State) : (sampleAcc s).acc = accumulate s.acc (sampledLevel s) := by
  unfold sampleAcc countDraw; split <;> rfl

@[simp] theorem sampleAcc_result (s : State) : (sampleAcc s).result = s.result := by
  unfold sampleAcc countDraw; split <;> rfl

@[simp] theorem sampleAcc_ackf (s : State) : (sampleAcc s).ackf = s.ackf := by
  unfold sampleAcc countDraw; split <;> rfl

@[simp] theorem sampleAcc_err (s : State) : (sampleAcc s).err = s.err := by
  unfold sampleAcc countDraw; split <;> rfl

@[simp] theorem sampleAcc_busy (s : State) : (sampleAcc s).busy = s.busy := by
  unfold sampleAcc countDraw; split <;> rfl

@[simp] theorem sampleAcc_curOp (s : State) : (sampleAcc s).curOp = s.curOp := by
  unfold sampleAcc countDraw; split <;> rfl

@[simp] theorem sampleAcc_curArg (s : State) : (sampleAcc s).curArg = s.curArg := by
  unfold sampleAcc countDraw; split <;> rfl

@[simp] theorem sampleAcc_upc (s : State) : (sampleAcc s).upc = s.upc := by
  unfold sampleAcc countDraw; split <;> rfl

@[simp] theorem sampleAcc_spinCnt (s : State) : (sampleAcc s).spinCnt = s.spinCnt := by
  unfold sampleAcc countDraw; split <;> rfl

@[simp] theorem sampleAcc_dlyCnt (s : State) : (sampleAcc s).dlyCnt = s.dlyCnt := by
  unfold sampleAcc countDraw; split <;> rfl

@[simp] theorem sampleAcc_rspValid (s : State) : (sampleAcc s).rspValid = s.rspValid := by
  unfold sampleAcc countDraw; split <;> rfl

@[simp] theorem sampleAcc_spinLimit (s : State) : (sampleAcc s).spinLimit = s.spinLimit := by
  unfold sampleAcc countDraw; split <;> rfl

@[simp] theorem sampleAcc_ack (s : State) : (sampleAcc s).ack = s.ack := by
  unfold sampleAcc countDraw; split <;> rfl

@[simp] theorem sampleAcc_pSda (s : State) : (sampleAcc s).pSda = s.pSda := by
  unfold sampleAcc countDraw; split <;> rfl

@[simp] theorem sampleAcc_env (s : State) : (sampleAcc s).env = s.env := by
  unfold sampleAcc countDraw; split <;> rfl

@[simp] theorem sampleAcc_host (s : State) : (sampleAcc s).host = s.host := by
  unfold sampleAcc countDraw; split <;> rfl

@[simp] theorem sampleAcc_log (s : State) : (sampleAcc s).log = .micro (.sample (sampledLevel s)) (sclWire s) (sdaWire s) :: s.log := by
  unfold sampleAcc countDraw; split <;> rfl

/-! ## sampleAck (R105) -/

@[simp] theorem sampleAck_sclLat (s : State) : (sampleAck s).sclLat = s.sclLat := by
  unfold sampleAck countDraw; split <;> rfl

@[simp] theorem sampleAck_sdaLat (s : State) : (sampleAck s).sdaLat = s.sdaLat := by
  unfold sampleAck countDraw; split <;> rfl

@[simp] theorem sampleAck_sdaDir (s : State) : (sampleAck s).sdaDir = s.sdaDir := by
  unfold sampleAck countDraw; split <;> rfl

@[simp] theorem sampleAck_odEn (s : State) : (sampleAck s).odEn = s.odEn := by
  unfold sampleAck countDraw; split <;> rfl

@[simp] theorem sampleAck_txsr (s : State) : (sampleAck s).txsr = s.txsr := by
  unfold sampleAck countDraw; split <;> rfl

@[simp] theorem sampleAck_acc (s : State) : (sampleAck s).acc = s.acc := by
  unfold sampleAck countDraw; split <;> rfl

@[simp] theorem sampleAck_result (s : State) : (sampleAck s).result = s.result := by
  unfold sampleAck countDraw; split <;> rfl

@[simp] theorem sampleAck_ackf (s : State) : (sampleAck s).ackf = s.ackf := by
  unfold sampleAck countDraw; split <;> rfl

@[simp] theorem sampleAck_err (s : State) : (sampleAck s).err = s.err := by
  unfold sampleAck countDraw; split <;> rfl

@[simp] theorem sampleAck_busy (s : State) : (sampleAck s).busy = s.busy := by
  unfold sampleAck countDraw; split <;> rfl

@[simp] theorem sampleAck_curOp (s : State) : (sampleAck s).curOp = s.curOp := by
  unfold sampleAck countDraw; split <;> rfl

@[simp] theorem sampleAck_curArg (s : State) : (sampleAck s).curArg = s.curArg := by
  unfold sampleAck countDraw; split <;> rfl

@[simp] theorem sampleAck_upc (s : State) : (sampleAck s).upc = s.upc := by
  unfold sampleAck countDraw; split <;> rfl

@[simp] theorem sampleAck_spinCnt (s : State) : (sampleAck s).spinCnt = s.spinCnt := by
  unfold sampleAck countDraw; split <;> rfl

@[simp] theorem sampleAck_dlyCnt (s : State) : (sampleAck s).dlyCnt = s.dlyCnt := by
  unfold sampleAck countDraw; split <;> rfl

@[simp] theorem sampleAck_rspValid (s : State) : (sampleAck s).rspValid = s.rspValid := by
  unfold sampleAck countDraw; split <;> rfl

@[simp] theorem sampleAck_spinLimit (s : State) : (sampleAck s).spinLimit = s.spinLimit := by
  unfold sampleAck countDraw; split <;> rfl

@[simp] theorem sampleAck_ack (s : State) : (sampleAck s).ack = ackOf (sampledLevel s) := by
  unfold sampleAck countDraw; split <;> rfl

@[simp] theorem sampleAck_pSda (s : State) : (sampleAck s).pSda = s.pSda := by
  unfold sampleAck countDraw; split <;> rfl

@[simp] theorem sampleAck_env (s : State) : (sampleAck s).env = s.env := by
  unfold sampleAck countDraw; split <;> rfl

@[simp] theorem sampleAck_host (s : State) : (sampleAck s).host = s.host := by
  unfold sampleAck countDraw; split <;> rfl

@[simp] theorem sampleAck_log (s : State) : (sampleAck s).log = .micro (.sample (sampledLevel s)) (sclWire s) (sdaWire s) :: s.log := by
  unfold sampleAck countDraw; split <;> rfl

/-! ## sampleSpin (R105) -/

@[simp] theorem sampleSpin_sclLat (s : State) : (sampleSpin s).sclLat = s.sclLat := by
  unfold sampleSpin countDraw; split <;> rfl

@[simp] theorem sampleSpin_sdaLat (s : State) : (sampleSpin s).sdaLat = s.sdaLat := by
  unfold sampleSpin countDraw; split <;> rfl

@[simp] theorem sampleSpin_sdaDir (s : State) : (sampleSpin s).sdaDir = s.sdaDir := by
  unfold sampleSpin countDraw; split <;> rfl

@[simp] theorem sampleSpin_odEn (s : State) : (sampleSpin s).odEn = s.odEn := by
  unfold sampleSpin countDraw; split <;> rfl

@[simp] theorem sampleSpin_txsr (s : State) : (sampleSpin s).txsr = s.txsr := by
  unfold sampleSpin countDraw; split <;> rfl

@[simp] theorem sampleSpin_acc (s : State) : (sampleSpin s).acc = s.acc := by
  unfold sampleSpin countDraw; split <;> rfl

@[simp] theorem sampleSpin_result (s : State) : (sampleSpin s).result = s.result := by
  unfold sampleSpin countDraw; split <;> rfl

@[simp] theorem sampleSpin_ackf (s : State) : (sampleSpin s).ackf = s.ackf := by
  unfold sampleSpin countDraw; split <;> rfl

@[simp] theorem sampleSpin_err (s : State) : (sampleSpin s).err = s.err := by
  unfold sampleSpin countDraw; split <;> rfl

@[simp] theorem sampleSpin_busy (s : State) : (sampleSpin s).busy = s.busy := by
  unfold sampleSpin countDraw; split <;> rfl

@[simp] theorem sampleSpin_curOp (s : State) : (sampleSpin s).curOp = s.curOp := by
  unfold sampleSpin countDraw; split <;> rfl

@[simp] theorem sampleSpin_curArg (s : State) : (sampleSpin s).curArg = s.curArg := by
  unfold sampleSpin countDraw; split <;> rfl

@[simp] theorem sampleSpin_upc (s : State) : (sampleSpin s).upc = s.upc := by
  unfold sampleSpin countDraw; split <;> rfl

@[simp] theorem sampleSpin_spinCnt (s : State) : (sampleSpin s).spinCnt = s.spinCnt + 1 := by
  unfold sampleSpin countDraw; split <;> rfl

@[simp] theorem sampleSpin_dlyCnt (s : State) : (sampleSpin s).dlyCnt = s.dlyCnt := by
  unfold sampleSpin countDraw; split <;> rfl

@[simp] theorem sampleSpin_rspValid (s : State) : (sampleSpin s).rspValid = s.rspValid := by
  unfold sampleSpin countDraw; split <;> rfl

@[simp] theorem sampleSpin_spinLimit (s : State) : (sampleSpin s).spinLimit = s.spinLimit := by
  unfold sampleSpin countDraw; split <;> rfl

@[simp] theorem sampleSpin_ack (s : State) : (sampleSpin s).ack = s.ack := by
  unfold sampleSpin countDraw; split <;> rfl

@[simp] theorem sampleSpin_pSda (s : State) : (sampleSpin s).pSda = s.pSda := by
  unfold sampleSpin countDraw; split <;> rfl

@[simp] theorem sampleSpin_env (s : State) : (sampleSpin s).env = s.env := by
  unfold sampleSpin countDraw; split <;> rfl

@[simp] theorem sampleSpin_host (s : State) : (sampleSpin s).host = s.host := by
  unfold sampleSpin countDraw; split <;> rfl

@[simp] theorem sampleSpin_log (s : State) : (sampleSpin s).log = .micro (.sample (sampledLevel s)) (sclWire s) (sdaWire s) :: s.log := by
  unfold sampleSpin countDraw; split <;> rfl

/-! ## respond (R33) -/

@[simp] theorem respond_sclLat (r : Response) (s : State) : (respond r s).sclLat = s.sclLat := rfl

@[simp] theorem respond_sdaLat (r : Response) (s : State) : (respond r s).sdaLat = s.sdaLat := rfl

@[simp] theorem respond_sdaDir (r : Response) (s : State) : (respond r s).sdaDir = s.sdaDir := rfl

@[simp] theorem respond_odEn (r : Response) (s : State) : (respond r s).odEn = s.odEn := rfl

@[simp] theorem respond_txsr (r : Response) (s : State) : (respond r s).txsr = s.txsr := rfl

@[simp] theorem respond_acc (r : Response) (s : State) : (respond r s).acc = s.acc := rfl

@[simp] theorem respond_result (r : Response) (s : State) : (respond r s).result = r.data := rfl

@[simp] theorem respond_ackf (r : Response) (s : State) : (respond r s).ackf = r.ack := rfl

@[simp] theorem respond_err (r : Response) (s : State) : (respond r s).err = r.err := rfl

@[simp] theorem respond_busy (r : Response) (s : State) : (respond r s).busy = false := rfl

@[simp] theorem respond_curOp (r : Response) (s : State) : (respond r s).curOp = s.curOp := rfl

@[simp] theorem respond_curArg (r : Response) (s : State) : (respond r s).curArg = s.curArg := rfl

@[simp] theorem respond_upc (r : Response) (s : State) : (respond r s).upc = 0 := rfl

@[simp] theorem respond_spinCnt (r : Response) (s : State) : (respond r s).spinCnt = s.spinCnt := rfl

@[simp] theorem respond_dlyCnt (r : Response) (s : State) : (respond r s).dlyCnt = s.dlyCnt := rfl

@[simp] theorem respond_rspValid (r : Response) (s : State) : (respond r s).rspValid = true := rfl

@[simp] theorem respond_spinLimit (r : Response) (s : State) : (respond r s).spinLimit = s.spinLimit := rfl

@[simp] theorem respond_ack (r : Response) (s : State) : (respond r s).ack = s.ack := rfl

@[simp] theorem respond_pSda (r : Response) (s : State) : (respond r s).pSda = s.pSda := rfl

@[simp] theorem respond_env (r : Response) (s : State) : (respond r s).env = s.env := rfl

@[simp] theorem respond_host (r : Response) (s : State) : (respond r s).host = s.host := rfl

@[simp] theorem respond_draws (r : Response) (s : State) : (respond r s).draws = s.draws := rfl

@[simp] theorem respond_log (r : Response) (s : State) : (respond r s).log = .response r :: s.log := rfl

/-! ## enter (R35) -/

@[simp] theorem enter_sclLat (c : Command) (k : BitVec 7) (s : State) : (enter c k s).sclLat = s.sclLat := rfl

@[simp] theorem enter_sdaLat (c : Command) (k : BitVec 7) (s : State) : (enter c k s).sdaLat = s.sdaLat := rfl

@[simp] theorem enter_sdaDir (c : Command) (k : BitVec 7) (s : State) : (enter c k s).sdaDir = s.sdaDir := rfl

@[simp] theorem enter_odEn (c : Command) (k : BitVec 7) (s : State) : (enter c k s).odEn = s.odEn := rfl

@[simp] theorem enter_txsr (c : Command) (k : BitVec 7) (s : State) : (enter c k s).txsr = s.txsr := rfl

@[simp] theorem enter_acc (c : Command) (k : BitVec 7) (s : State) : (enter c k s).acc = s.acc := rfl

@[simp] theorem enter_result (c : Command) (k : BitVec 7) (s : State) : (enter c k s).result = s.result := rfl

@[simp] theorem enter_ackf (c : Command) (k : BitVec 7) (s : State) : (enter c k s).ackf = s.ackf := rfl

@[simp] theorem enter_err (c : Command) (k : BitVec 7) (s : State) : (enter c k s).err = s.err := rfl

@[simp] theorem enter_busy (c : Command) (k : BitVec 7) (s : State) : (enter c k s).busy = s.busy := rfl

@[simp] theorem enter_curOp (c : Command) (k : BitVec 7) (s : State) : (enter c k s).curOp = s.curOp := rfl

@[simp] theorem enter_curArg (c : Command) (k : BitVec 7) (s : State) : (enter c k s).curArg = s.curArg := rfl

@[simp] theorem enter_upc (c : Command) (k : BitVec 7) (s : State) : (enter c k s).upc = k := rfl

@[simp] theorem enter_spinCnt (c : Command) (k : BitVec 7) (s : State) : (enter c k s).spinCnt = if isSpin c.program[k.toNat]? then 0 else s.spinCnt := rfl

@[simp] theorem enter_dlyCnt (c : Command) (k : BitVec 7) (s : State) : (enter c k s).dlyCnt = s.dlyCnt := rfl

@[simp] theorem enter_rspValid (c : Command) (k : BitVec 7) (s : State) : (enter c k s).rspValid = s.rspValid := rfl

@[simp] theorem enter_spinLimit (c : Command) (k : BitVec 7) (s : State) : (enter c k s).spinLimit = s.spinLimit := rfl

@[simp] theorem enter_ack (c : Command) (k : BitVec 7) (s : State) : (enter c k s).ack = s.ack := rfl

@[simp] theorem enter_pSda (c : Command) (k : BitVec 7) (s : State) : (enter c k s).pSda = s.pSda := rfl

@[simp] theorem enter_env (c : Command) (k : BitVec 7) (s : State) : (enter c k s).env = s.env := rfl

@[simp] theorem enter_host (c : Command) (k : BitVec 7) (s : State) : (enter c k s).host = s.host := rfl

@[simp] theorem enter_draws (c : Command) (k : BitVec 7) (s : State) : (enter c k s).draws = s.draws := rfl

@[simp] theorem enter_log (c : Command) (k : BitVec 7) (s : State) : (enter c k s).log = s.log := rfl

/-! ## envMove (R56): only the environment changes -/

@[simp] theorem envMove_sclLat (s : State) : (envMove s).sclLat = s.sclLat := by unfold envMove; split <;> rfl

@[simp] theorem envMove_sdaLat (s : State) : (envMove s).sdaLat = s.sdaLat := by unfold envMove; split <;> rfl

@[simp] theorem envMove_sdaDir (s : State) : (envMove s).sdaDir = s.sdaDir := by unfold envMove; split <;> rfl

@[simp] theorem envMove_odEn (s : State) : (envMove s).odEn = s.odEn := by unfold envMove; split <;> rfl

@[simp] theorem envMove_txsr (s : State) : (envMove s).txsr = s.txsr := by unfold envMove; split <;> rfl

@[simp] theorem envMove_acc (s : State) : (envMove s).acc = s.acc := by unfold envMove; split <;> rfl

@[simp] theorem envMove_result (s : State) : (envMove s).result = s.result := by unfold envMove; split <;> rfl

@[simp] theorem envMove_ackf (s : State) : (envMove s).ackf = s.ackf := by unfold envMove; split <;> rfl

@[simp] theorem envMove_err (s : State) : (envMove s).err = s.err := by unfold envMove; split <;> rfl

@[simp] theorem envMove_busy (s : State) : (envMove s).busy = s.busy := by unfold envMove; split <;> rfl

@[simp] theorem envMove_curOp (s : State) : (envMove s).curOp = s.curOp := by unfold envMove; split <;> rfl

@[simp] theorem envMove_curArg (s : State) : (envMove s).curArg = s.curArg := by unfold envMove; split <;> rfl

@[simp] theorem envMove_upc (s : State) : (envMove s).upc = s.upc := by unfold envMove; split <;> rfl

@[simp] theorem envMove_spinCnt (s : State) : (envMove s).spinCnt = s.spinCnt := by unfold envMove; split <;> rfl

@[simp] theorem envMove_dlyCnt (s : State) : (envMove s).dlyCnt = s.dlyCnt := by unfold envMove; split <;> rfl

@[simp] theorem envMove_rspValid (s : State) : (envMove s).rspValid = s.rspValid := by unfold envMove; split <;> rfl

@[simp] theorem envMove_spinLimit (s : State) : (envMove s).spinLimit = s.spinLimit := by unfold envMove; split <;> rfl

@[simp] theorem envMove_ack (s : State) : (envMove s).ack = s.ack := by unfold envMove; split <;> rfl

@[simp] theorem envMove_host (s : State) : (envMove s).host = s.host := by unfold envMove; split <;> rfl

@[simp] theorem envMove_draws (s : State) : (envMove s).draws = s.draws := by unfold envMove; split <;> rfl

@[simp] theorem envMove_log (s : State) : (envMove s).log = envEvents s ++ s.log := by
  unfold envMove
  split
  · rename_i h
    simp [envEvents, h]
  · rfl

/-! ## tick -/

@[simp] theorem tick_sclLat (s : State) : (tick s).sclLat = s.sclLat := by unfold tick envMove; split <;> rfl

@[simp] theorem tick_sdaLat (s : State) : (tick s).sdaLat = s.sdaLat := by unfold tick envMove; split <;> rfl

@[simp] theorem tick_sdaDir (s : State) : (tick s).sdaDir = s.sdaDir := by unfold tick envMove; split <;> rfl

@[simp] theorem tick_odEn (s : State) : (tick s).odEn = s.odEn := by unfold tick envMove; split <;> rfl

@[simp] theorem tick_txsr (s : State) : (tick s).txsr = s.txsr := by unfold tick envMove; split <;> rfl

@[simp] theorem tick_acc (s : State) : (tick s).acc = s.acc := by unfold tick envMove; split <;> rfl

@[simp] theorem tick_result (s : State) : (tick s).result = s.result := by unfold tick envMove; split <;> rfl

@[simp] theorem tick_ackf (s : State) : (tick s).ackf = s.ackf := by unfold tick envMove; split <;> rfl

@[simp] theorem tick_err (s : State) : (tick s).err = s.err := by unfold tick envMove; split <;> rfl

@[simp] theorem tick_busy (s : State) : (tick s).busy = s.busy := by unfold tick envMove; split <;> rfl

@[simp] theorem tick_curOp (s : State) : (tick s).curOp = s.curOp := by unfold tick envMove; split <;> rfl

@[simp] theorem tick_curArg (s : State) : (tick s).curArg = s.curArg := by unfold tick envMove; split <;> rfl

@[simp] theorem tick_upc (s : State) : (tick s).upc = s.upc := by unfold tick envMove; split <;> rfl

@[simp] theorem tick_spinCnt (s : State) : (tick s).spinCnt = s.spinCnt := by unfold tick envMove; split <;> rfl

@[simp] theorem tick_dlyCnt (s : State) : (tick s).dlyCnt = s.dlyCnt := by unfold tick envMove; split <;> rfl

@[simp] theorem tick_rspValid (s : State) : (tick s).rspValid = false := by unfold tick envMove; split <;> rfl

@[simp] theorem tick_spinLimit (s : State) : (tick s).spinLimit = s.spinLimit := by unfold tick envMove; split <;> rfl

@[simp] theorem tick_ack (s : State) : (tick s).ack = s.ack := by unfold tick envMove; split <;> rfl

@[simp] theorem tick_host (s : State) : (tick s).host = s.host := by unfold tick envMove; split <;> rfl

@[simp] theorem tick_draws (s : State) : (tick s).draws = s.draws := by unfold tick envMove; split <;> rfl

@[simp] theorem tick_log (s : State) : (tick s).log = envEvents s ++ s.log := envMove_log s

/-! ## hostWait: only the host's list changes -/

@[simp] theorem hostWait_sclLat (s : State) : (hostWait s).sclLat = s.sclLat := by unfold hostWait; split <;> rfl

@[simp] theorem hostWait_sdaLat (s : State) : (hostWait s).sdaLat = s.sdaLat := by unfold hostWait; split <;> rfl

@[simp] theorem hostWait_sdaDir (s : State) : (hostWait s).sdaDir = s.sdaDir := by unfold hostWait; split <;> rfl

@[simp] theorem hostWait_odEn (s : State) : (hostWait s).odEn = s.odEn := by unfold hostWait; split <;> rfl

@[simp] theorem hostWait_txsr (s : State) : (hostWait s).txsr = s.txsr := by unfold hostWait; split <;> rfl

@[simp] theorem hostWait_acc (s : State) : (hostWait s).acc = s.acc := by unfold hostWait; split <;> rfl

@[simp] theorem hostWait_result (s : State) : (hostWait s).result = s.result := by unfold hostWait; split <;> rfl

@[simp] theorem hostWait_ackf (s : State) : (hostWait s).ackf = s.ackf := by unfold hostWait; split <;> rfl

@[simp] theorem hostWait_err (s : State) : (hostWait s).err = s.err := by unfold hostWait; split <;> rfl

@[simp] theorem hostWait_busy (s : State) : (hostWait s).busy = s.busy := by unfold hostWait; split <;> rfl

@[simp] theorem hostWait_curOp (s : State) : (hostWait s).curOp = s.curOp := by unfold hostWait; split <;> rfl

@[simp] theorem hostWait_curArg (s : State) : (hostWait s).curArg = s.curArg := by unfold hostWait; split <;> rfl

@[simp] theorem hostWait_upc (s : State) : (hostWait s).upc = s.upc := by unfold hostWait; split <;> rfl

@[simp] theorem hostWait_spinCnt (s : State) : (hostWait s).spinCnt = s.spinCnt := by unfold hostWait; split <;> rfl

@[simp] theorem hostWait_dlyCnt (s : State) : (hostWait s).dlyCnt = s.dlyCnt := by unfold hostWait; split <;> rfl

@[simp] theorem hostWait_rspValid (s : State) : (hostWait s).rspValid = s.rspValid := by unfold hostWait; split <;> rfl

@[simp] theorem hostWait_spinLimit (s : State) : (hostWait s).spinLimit = s.spinLimit := by unfold hostWait; split <;> rfl

@[simp] theorem hostWait_ack (s : State) : (hostWait s).ack = s.ack := by unfold hostWait; split <;> rfl

@[simp] theorem hostWait_pSda (s : State) : (hostWait s).pSda = s.pSda := by unfold hostWait; split <;> rfl

@[simp] theorem hostWait_env (s : State) : (hostWait s).env = s.env := by unfold hostWait; split <;> rfl

@[simp] theorem hostWait_draws (s : State) : (hostWait s).draws = s.draws := by unfold hostWait; split <;> rfl

@[simp] theorem hostWait_log (s : State) : (hostWait s).log = s.log := by unfold hostWait; split <;> rfl

/-! ## applyReset (R180, R181) -/

@[simp] theorem applyReset_sclLat (s : State) : (applyReset s).sclLat = State.reset.sclLat := rfl

@[simp] theorem applyReset_sdaLat (s : State) : (applyReset s).sdaLat = State.reset.sdaLat := rfl

@[simp] theorem applyReset_sdaDir (s : State) : (applyReset s).sdaDir = State.reset.sdaDir := rfl

@[simp] theorem applyReset_odEn (s : State) : (applyReset s).odEn = State.reset.odEn := rfl

@[simp] theorem applyReset_txsr (s : State) : (applyReset s).txsr = State.reset.txsr := rfl

@[simp] theorem applyReset_acc (s : State) : (applyReset s).acc = State.reset.acc := rfl

@[simp] theorem applyReset_result (s : State) : (applyReset s).result = State.reset.result := rfl

@[simp] theorem applyReset_ackf (s : State) : (applyReset s).ackf = State.reset.ackf := rfl

@[simp] theorem applyReset_err (s : State) : (applyReset s).err = State.reset.err := rfl

@[simp] theorem applyReset_busy (s : State) : (applyReset s).busy = State.reset.busy := rfl

@[simp] theorem applyReset_curOp (s : State) : (applyReset s).curOp = State.reset.curOp := rfl

@[simp] theorem applyReset_curArg (s : State) : (applyReset s).curArg = State.reset.curArg := rfl

@[simp] theorem applyReset_upc (s : State) : (applyReset s).upc = State.reset.upc := rfl

@[simp] theorem applyReset_spinCnt (s : State) : (applyReset s).spinCnt = State.reset.spinCnt := rfl

@[simp] theorem applyReset_dlyCnt (s : State) : (applyReset s).dlyCnt = State.reset.dlyCnt := rfl

@[simp] theorem applyReset_rspValid (s : State) : (applyReset s).rspValid = State.reset.rspValid := rfl

@[simp] theorem applyReset_spinLimit (s : State) : (applyReset s).spinLimit = s.spinLimit := rfl

@[simp] theorem applyReset_ack (s : State) : (applyReset s).ack = State.reset.ack := rfl

@[simp] theorem applyReset_pSda (s : State) : (applyReset s).pSda = s.pSda := rfl

@[simp] theorem applyReset_env (s : State) : (applyReset s).env = s.env := rfl

@[simp] theorem applyReset_host (s : State) : (applyReset s).host = s.host := rfl

@[simp] theorem applyReset_draws (s : State) : (applyReset s).draws = s.draws := rfl

@[simp] theorem applyReset_log (s : State) :
    (applyReset s).log =
      .reset (sclWire State.reset) (sdaWire { State.reset with pSda := s.pSda }) :: s.log := rfl

/-! ## rejectWord (R84) -/

@[simp] theorem rejectWord_sclLat (s : State) : (rejectWord s).sclLat = s.sclLat := rfl

@[simp] theorem rejectWord_sdaLat (s : State) : (rejectWord s).sdaLat = s.sdaLat := rfl

@[simp] theorem rejectWord_sdaDir (s : State) : (rejectWord s).sdaDir = s.sdaDir := rfl

@[simp] theorem rejectWord_odEn (s : State) : (rejectWord s).odEn = s.odEn := rfl

@[simp] theorem rejectWord_txsr (s : State) : (rejectWord s).txsr = s.txsr := rfl

@[simp] theorem rejectWord_acc (s : State) : (rejectWord s).acc = s.acc := rfl

@[simp] theorem rejectWord_result (s : State) : (rejectWord s).result = 0 := rfl

@[simp] theorem rejectWord_ackf (s : State) : (rejectWord s).ackf = false := rfl

@[simp] theorem rejectWord_err (s : State) : (rejectWord s).err = .illegalCmd := rfl

@[simp] theorem rejectWord_busy (s : State) : (rejectWord s).busy = false := rfl

@[simp] theorem rejectWord_curOp (s : State) : (rejectWord s).curOp = s.curOp := rfl

@[simp] theorem rejectWord_curArg (s : State) : (rejectWord s).curArg = s.curArg := rfl

@[simp] theorem rejectWord_upc (s : State) : (rejectWord s).upc = 0 := rfl

@[simp] theorem rejectWord_spinCnt (s : State) : (rejectWord s).spinCnt = s.spinCnt := rfl

@[simp] theorem rejectWord_dlyCnt (s : State) : (rejectWord s).dlyCnt = s.dlyCnt := rfl

@[simp] theorem rejectWord_rspValid (s : State) : (rejectWord s).rspValid = true := rfl

@[simp] theorem rejectWord_spinLimit (s : State) : (rejectWord s).spinLimit = s.spinLimit := rfl

@[simp] theorem rejectWord_ack (s : State) : (rejectWord s).ack = s.ack := rfl

@[simp] theorem rejectWord_pSda (s : State) : (rejectWord s).pSda = s.pSda := rfl

@[simp] theorem rejectWord_env (s : State) : (rejectWord s).env = s.env := rfl

@[simp] theorem rejectWord_host (s : State) : (rejectWord s).host = s.host := rfl

@[simp] theorem rejectWord_draws (s : State) : (rejectWord s).draws = s.draws := rfl

@[simp] theorem rejectWord_log (s : State) : (rejectWord s).log = .response (errorResponse .illegalCmd) :: s.log := rfl

end Sys2Proof.Machine
end

