-- ==== Sys2Proof/Laws/Ops.lean ====
section
/-! SUPPORT. What each shared operation can do, once: the wires, a sample, a micro-operation, the
end of a command, one move of the sequencer. -/

namespace Sys2Proof.Machine

/-! ## The wires -/

/-- The clock wire is the clock latch, in either output mode (R57). -/
theorem sclWire_eq (s : State) : sclWire s = .level s.sclLat := by
  unfold sclWire driveScl
  cases s.odEn <;> cases s.sclLat <;> rfl

/-- With the line an input the peripherals alone decide (R55 a). -/
theorem sdaWire_inp {s : State} (h : s.sdaDir = .inp) :
    sdaWire s = .level (decide (s.pSda = .released)) := by
  unfold sdaWire driveSda
  rw [h]
  cases s.pSda <;> rfl

/-- The engine reads back its own low (R55 b). -/
theorem sdaWire_low {s : State} (h : s.sdaDir = .out) (hl : s.sdaLat = false) :
    sdaWire s = .level false := by
  unfold sdaWire driveSda
  rw [h, hl]
  cases s.odEn <;> cases s.pSda <;> rfl

/-- A released open-drain output behaves as an input (R55 c). -/
theorem sdaWire_openDrain {s : State} (ho : s.odEn = true) (hl : s.sdaLat = true) :
    sdaWire s = .level (decide (s.pSda = .released)) := by
  unfold sdaWire driveSda
  rw [ho, hl]
  cases s.sdaDir <;> cases s.pSda <;> rfl

/-- A line nobody pulls low and whose latch is high is high, in every mode. -/
theorem sdaWire_unpulled {s : State} (hp : s.pSda = .released) (hl : s.sdaLat = true) :
    sdaWire s = .level true := by
  unfold sdaWire driveSda
  rw [hp, hl]
  cases s.sdaDir <;> cases s.odEn <;> rfl

/-- A wire at a level is what a sample returns (R54). -/
theorem sampledLevel_of_level {s : State} {v : Level} (h : sdaWire s = .level v) :
    sampledLevel s = v := by
  unfold sampledLevel
  rw [h]

/-- A wire that depends on the same latches and the same pull is the same wire. -/
theorem sdaWire_congr {s t : State} (hd : s.sdaDir = t.sdaDir) (ho : s.odEn = t.odEn)
    (hl : s.sdaLat = t.sdaLat) (hp : s.pSda = t.pSda) : sdaWire s = sdaWire t := by
  unfold sdaWire driveSda
  rw [hd, ho, hl, hp]

theorem sampledLevel_congr {s t : State} (hw : sdaWire s = sdaWire t) (hn : s.draws = t.draws) :
    sampledLevel s = sampledLevel t := by
  unfold sampledLevel
  rw [hw, hn]

/-! ## A micro-operation -/

/-- The trace symbol a micro-operation performed in `s` leaves (R13). -/
def traceOf (m : MicroOp) (s : State) : TraceOp :=
  match m with
  | .setScl v => .scl v
  | .setSda src => .sda (sdaOperand src s)
  | .setDir d => .dir d
  | .setOd => .od
  | .wait d => .wait d
  | .waitShift d => .wait d
  | .sampleAcc => .sample (sampledLevel s)
  | .sampleAck => .sample (sampledLevel s)
  | .spinWhile _ => .sample (sampledLevel s)

section
variable (m : MicroOp) (s : State)

@[simp] theorem perform_busy : (perform m s).busy = s.busy := by cases m <;> simp [perform]
@[simp] theorem perform_curOp : (perform m s).curOp = s.curOp := by cases m <;> simp [perform]
@[simp] theorem perform_curArg : (perform m s).curArg = s.curArg := by cases m <;> simp [perform]
@[simp] theorem perform_upc : (perform m s).upc = s.upc := by cases m <;> simp [perform]
@[simp] theorem perform_result : (perform m s).result = s.result := by cases m <;> simp [perform]
@[simp] theorem perform_ackf : (perform m s).ackf = s.ackf := by cases m <;> simp [perform]
@[simp] theorem perform_err : (perform m s).err = s.err := by cases m <;> simp [perform]
@[simp] theorem perform_rspValid : (perform m s).rspValid = s.rspValid := by cases m <;> simp [perform]
@[simp] theorem perform_spinLimit : (perform m s).spinLimit = s.spinLimit := by cases m <;> simp [perform]
@[simp] theorem perform_pSda : (perform m s).pSda = s.pSda := by cases m <;> simp [perform]
@[simp] theorem perform_env : (perform m s).env = s.env := by cases m <;> simp [perform]
@[simp] theorem perform_host : (perform m s).host = s.host := by cases m <;> simp [perform]

end

/-- Every micro-operation puts exactly one event on the record: its symbol and the wires after it. -/
theorem perform_log (m : MicroOp) (s : State) :
    (perform m s).log =
      .micro (traceOf m s) (sclWire (perform m s)) (sdaWire (perform m s)) :: s.log := by
  cases m <;> simp only [perform, traceOf, sampleAcc, sampleAck, sampleSpin, waitShift, wait, setScl,
    setSda, setDir, setOd, record, countDraw] <;> (try split) <;> rfl

/-- Only a spin does anything but advance. -/
theorem flowOf_of_not_spin {m : MicroOp} {s : State} (h : isSpin (some m) = false) :
    flowOf m s = .advance := by
  cases m <;> simp_all [isSpin, flowOf]

/-! ## The end of a micro-operation -/

/-- After a micro-operation the next entry is entered, or, after the last, the command completes. -/
theorem advance_cases (c : Command) (s : State) :
    (s.upc.toNat + 1 < c.program.length ∧ advance c s = enter c (s.upc + 1) s) ∨
    (c.program.length ≤ s.upc.toNat + 1 ∧ advance c s = respond (replyOf c.reply s) s) := by
  unfold advance
  split
  · exact .inl ⟨‹_›, rfl⟩
  · exact .inr ⟨by omega, rfl⟩

/-- All a move of the engine can be, when it answers a next state. -/
theorem microStep_next {c : Command} {s t : State} (h : microStep c s = .next t) :
    ∃ m, c.program[s.upc.toNat]? = some m ∧
      ((flowOf m s = .advance ∧ t = advance c (perform m s)) ∨
       (flowOf m s = .stay ∧ t = perform m s) ∨
       (∃ e, flowOf m s = .abort e ∧ t = respond (errorResponse e) (perform m s))) := by
  unfold microStep at h
  split at h
  · cases h
  · rename_i m hm
    refine ⟨m, hm, ?_⟩
    split at h
    · cases h
      exact .inl ⟨‹_›, rfl⟩
    · cases h
      exact .inr (.inl ⟨‹_›, rfl⟩)
    · cases h
      exact .inr (.inr ⟨_, ‹_›, rfl⟩)

/-- Inside its micro-program the engine always answers a next state. -/
theorem microStep_progress {c : Command} {s : State} (h : s.upc.toNat < c.program.length) :
    ∃ t, microStep c s = .next t := by
  unfold microStep
  rw [List.getElem?_eq_getElem h]
  simp only
  split <;> exact ⟨_, rfl⟩

/-- A micro-operation that is no spin, performed at UPC. -/
theorem microStep_plain {c : Command} {s : State} {m : MicroOp}
    (hm : c.program[s.upc.toNat]? = some m) (hs : isSpin (some m) = false) :
    microStep c s = .next (advance c (perform m s)) := by
  unfold microStep
  rw [hm]
  simp only [flowOf_of_not_spin hs]

theorem runCommand_idle {c : Command} {s : State} (h : s.busy = false) :
    runCommand c s = .next (accept c s) := by
  simp [runCommand, h]

theorem runCommand_busy {c : Command} {s : State} (h : s.busy = true) :
    runCommand c s = microStep c s := by
  simp [runCommand, h]

/-! ## Acceptance -/

section
variable (w : WorkInit) (c : Command) (s : State)

@[simp] theorem initWork_sclLat : (initWork w s).sclLat = s.sclLat := by cases w <;> rfl
@[simp] theorem initWork_sdaLat : (initWork w s).sdaLat = s.sdaLat := by cases w <;> rfl
@[simp] theorem initWork_sdaDir : (initWork w s).sdaDir = s.sdaDir := by cases w <;> rfl
@[simp] theorem initWork_odEn : (initWork w s).odEn = s.odEn := by cases w <;> rfl
@[simp] theorem initWork_result : (initWork w s).result = s.result := by cases w <;> rfl
@[simp] theorem initWork_ackf : (initWork w s).ackf = s.ackf := by cases w <;> rfl
@[simp] theorem initWork_err : (initWork w s).err = s.err := by cases w <;> rfl
@[simp] theorem initWork_busy : (initWork w s).busy = s.busy := by cases w <;> rfl
@[simp] theorem initWork_curOp : (initWork w s).curOp = s.curOp := by cases w <;> rfl
@[simp] theorem initWork_curArg : (initWork w s).curArg = s.curArg := by cases w <;> rfl
@[simp] theorem initWork_upc : (initWork w s).upc = s.upc := by cases w <;> rfl
@[simp] theorem initWork_spinCnt : (initWork w s).spinCnt = s.spinCnt := by cases w <;> rfl
@[simp] theorem initWork_dlyCnt : (initWork w s).dlyCnt = s.dlyCnt := by cases w <;> rfl
@[simp] theorem initWork_rspValid : (initWork w s).rspValid = s.rspValid := by cases w <;> rfl
@[simp] theorem initWork_spinLimit : (initWork w s).spinLimit = s.spinLimit := by cases w <;> rfl
@[simp] theorem initWork_ack : (initWork w s).ack = s.ack := by cases w <;> rfl
@[simp] theorem initWork_pSda : (initWork w s).pSda = s.pSda := by cases w <;> rfl
@[simp] theorem initWork_env : (initWork w s).env = s.env := by cases w <;> rfl
@[simp] theorem initWork_host : (initWork w s).host = s.host := by cases w <;> rfl
@[simp] theorem initWork_draws : (initWork w s).draws = s.draws := by cases w <;> rfl
@[simp] theorem initWork_log : (initWork w s).log = s.log := by cases w <;> rfl

@[simp] theorem accept_sclLat : (accept c s).sclLat = s.sclLat := by simp [accept]
@[simp] theorem accept_sdaLat : (accept c s).sdaLat = s.sdaLat := by simp [accept]
@[simp] theorem accept_sdaDir : (accept c s).sdaDir = s.sdaDir := by simp [accept]
@[simp] theorem accept_odEn : (accept c s).odEn = s.odEn := by simp [accept]
@[simp] theorem accept_result : (accept c s).result = s.result := by simp [accept]
@[simp] theorem accept_ackf : (accept c s).ackf = s.ackf := by simp [accept]
@[simp] theorem accept_err : (accept c s).err = s.err := by simp [accept]
@[simp] theorem accept_busy : (accept c s).busy = true := by simp [accept]
@[simp] theorem accept_curOp : (accept c s).curOp = c.op := by simp [accept]
@[simp] theorem accept_curArg : (accept c s).curArg = c.arg := by simp [accept]
@[simp] theorem accept_upc : (accept c s).upc = 0 := by simp [accept]
@[simp] theorem accept_dlyCnt : (accept c s).dlyCnt = s.dlyCnt := by simp [accept]
@[simp] theorem accept_rspValid : (accept c s).rspValid = s.rspValid := by simp [accept]
@[simp] theorem accept_spinLimit : (accept c s).spinLimit = s.spinLimit := by simp [accept]
@[simp] theorem accept_ack : (accept c s).ack = s.ack := by simp [accept]
@[simp] theorem accept_pSda : (accept c s).pSda = s.pSda := by simp [accept]
@[simp] theorem accept_env : (accept c s).env = s.env := by simp [accept]
@[simp] theorem accept_host : (accept c s).host = s.host := by simp [accept]
@[simp] theorem accept_draws : (accept c s).draws = s.draws := by simp [accept]
@[simp] theorem accept_log : (accept c s).log = s.log := by simp [accept]

end

end Sys2Proof.Machine
end

