-- ==== Sys2Proof/Laws/PerInstr.lean ====
section
/-! SUPPORT. What holds of every command as syntax, command by command: its fields pass every check
of R84, and its word is covered by its own row of R83's table and gives those fields back. -/

namespace Sys2Proof.Laws.EncodedFields

open Sys2Proof

/-- The fields of the command are well formed; its word has those fields; some row with its mnemonic
covers the word. -/
def Statement (i : Instr) : Prop :=
  instrWellFormed i = true ∧ fieldsOf (encode i) = instrFields i ∧
  ∃ r ∈ rows, r.mnemonic = mnemonicOf i ∧ r.covers (encode i) = true

theorem i2cStart : Statement .i2cStart :=
  ⟨by decide, by decide, { mnemonic := "I2C_START", pattern := 0x0100, mask := 0xFFFF }, by decide, rfl,
    by decide⟩

theorem i2cWrite (byte : Byte) : Statement (.i2cWrite byte) := by
  refine ⟨rfl, ?_, { mnemonic := "I2C_WRITE", pattern := 0x0200, mask := 0xFF00 }, by decide, rfl, ?_⟩
  · revert byte
    decide +kernel
  · revert byte
    decide +kernel

theorem i2cRead (sendAck : Bool) : Statement (.i2cRead sendAck) := by
  refine ⟨?_, ?_, { mnemonic := "I2C_READ", pattern := 0x0300, mask := 0xFFFE }, by decide, rfl, ?_⟩ <;>
    cases sendAck <;> decide

theorem i2cStop : Statement .i2cStop :=
  ⟨by decide, by decide, { mnemonic := "I2C_STOP", pattern := 0x0400, mask := 0xFFFF }, by decide, rfl,
    by decide⟩

theorem shtStart : Statement .shtStart :=
  ⟨by decide, by decide, { mnemonic := "SHT_START", pattern := 0x0500, mask := 0xFFFF }, by decide, rfl,
    by decide⟩

theorem shtCmd (byte : Byte) : Statement (.shtCmd byte) := by
  refine ⟨rfl, ?_, { mnemonic := "SHT_CMD", pattern := 0x0600, mask := 0xFF00 }, by decide, rfl, ?_⟩
  · revert byte
    decide +kernel
  · revert byte
    decide +kernel

theorem shtRead16 : Statement .shtRead16 :=
  ⟨by decide, by decide, { mnemonic := "SHT_READ16", pattern := 0x0700, mask := 0xFFFF }, by decide, rfl,
    by decide⟩

end Sys2Proof.Laws.EncodedFields
end

