-- ==== Sys2Proof/Laws/Step.lean ====
section
/-! SUPPORT. What a step can do, once; runs; what the environment contributes at each step. -/

namespace Sys2Proof

/-! ## The command in progress -/

/-- The fields a command is encoded with are read back as that command. -/
theorem decodeFields_instrFields (i : Instr) : decodeFields (instrFields i) = .ok i := by
  cases i with
  | i2cRead a => cases a <;> decide
  | i2cWrite b => rfl
  | shtCmd b => rfl
  | _ => decide

end Sys2Proof

namespace Sys2Proof.Machine

theorem commandOf_op (i : Instr) : (commandOf i).op = opOf i := by cases i <;> rfl

theorem commandOf_arg (i : Instr) : (commandOf i).arg = argOf i := by cases i <;> rfl

/-- Each arm of `exec` is the sequencer's move for its command. -/
theorem exec_eq (i : Instr) (s : State) : exec i s = runCommand (commandOf i) s := by
  cases i <;> rfl

/-- A latched command is the one in progress. -/
theorem currentInstr_of_fields {s : State} {i : Instr} (ho : s.curOp = opOf i)
    (ha : s.curArg = argOf i) : currentInstr s = some i := by
  have h := decodeFields_instrFields i
  unfold instrFields at h
  unfold currentInstr
  rw [ho, ha, h]

theorem currentInstr_congr {s t : State} (ho : s.curOp = t.curOp) (ha : s.curArg = t.curArg) :
    currentInstr s = currentInstr t := by
  unfold currentInstr
  rw [ho, ha]

/-- Acceptance latches the command. -/
theorem currentInstr_accept (i : Instr) (s : State) :
    currentInstr (accept (commandOf i) s) = some i :=
  currentInstr_of_fields (by simp [commandOf_op]) (by simp [commandOf_arg])

/-! ## The environment -/

@[simp] theorem pullAt_nil (p : Pull) (k : Nat) : pullAt p [] k = p := by cases k <;> rfl

theorem pullAt_tail (p : Pull) (l : List (List Pull)) (k : Nat) :
    pullAt (pullAt p l 0) l.tail k = pullAt p l (k + 1) := by
  cases l <;> simp [pullAt]

@[simp] theorem tick_pSda (s : State) : (tick s).pSda = pullAt s.pSda s.env 0 := by
  unfold tick envMove
  cases h : s.env <;> simp [pullAt]

@[simp] theorem tick_env (s : State) : (tick s).env = s.env.tail := by
  unfold tick envMove
  cases h : s.env <;> simp [h]

/-- Contributions that are all one value stay that value. -/
theorem pullAt_const {p : Pull} {l : List (List Pull)} {q : Pull} (hp : p = q)
    (hl : ∀ ps ∈ l, ∀ x ∈ ps, x = q) (k : Nat) : pullAt p l k = q := by
  induction l generalizing p k with
  | nil => simp [hp]
  | cons ps rest ih =>
    have hq : ps.getLastD p = q := by
      rcases List.eq_nil_or_concat ps with rfl | ⟨l, x, rfl⟩
      · simpa using hp
      · simpa using hl (l.concat x) (by simp) x (by simp)
    cases k with
    | zero => exact hq
    | succ k => exact ih hq (fun y hy => hl y (by simp [hy])) k

/-! ## The host -/

theorem NoReset.tick {s : State} (h : NoReset s) : NoReset (tick s) := by
  unfold NoReset
  rw [tick_host]
  exact h

theorem hostWait_host_subset {s : State} {m : HostMove} (h : m ∈ (hostWait s).host) : m ∈ s.host := by
  unfold hostWait at h
  split at h
  · rename_i rest heq
    rw [heq]
    exact List.mem_cons_of_mem _ h
  · exact h

theorem NoReset.hostWait {s : State} (h : NoReset s) : NoReset (hostWait s) :=
  fun m hm => h m (hostWait_host_subset hm)

theorem NoReset.of_host {s t : State} (h : NoReset s) (e : t.host = s.host) : NoReset t := by
  unfold NoReset
  rw [e]
  exact h

/-! ## One step -/

/-- What a busy machine's step starts its micro-operation from. -/
def beforeMicro (s : State) : State := hostWait (tick s)

section
variable (s : State)
@[simp] theorem beforeMicro_sclLat : (beforeMicro s).sclLat = s.sclLat := by simp [beforeMicro]
@[simp] theorem beforeMicro_sdaLat : (beforeMicro s).sdaLat = s.sdaLat := by simp [beforeMicro]
@[simp] theorem beforeMicro_sdaDir : (beforeMicro s).sdaDir = s.sdaDir := by simp [beforeMicro]
@[simp] theorem beforeMicro_odEn : (beforeMicro s).odEn = s.odEn := by simp [beforeMicro]
@[simp] theorem beforeMicro_txsr : (beforeMicro s).txsr = s.txsr := by simp [beforeMicro]
@[simp] theorem beforeMicro_acc : (beforeMicro s).acc = s.acc := by simp [beforeMicro]
@[simp] theorem beforeMicro_result : (beforeMicro s).result = s.result := by simp [beforeMicro]
@[simp] theorem beforeMicro_ackf : (beforeMicro s).ackf = s.ackf := by simp [beforeMicro]
@[simp] theorem beforeMicro_err : (beforeMicro s).err = s.err := by simp [beforeMicro]
@[simp] theorem beforeMicro_busy : (beforeMicro s).busy = s.busy := by simp [beforeMicro]
@[simp] theorem beforeMicro_curOp : (beforeMicro s).curOp = s.curOp := by simp [beforeMicro]
@[simp] theorem beforeMicro_curArg : (beforeMicro s).curArg = s.curArg := by simp [beforeMicro]
@[simp] theorem beforeMicro_upc : (beforeMicro s).upc = s.upc := by simp [beforeMicro]
@[simp] theorem beforeMicro_spinCnt : (beforeMicro s).spinCnt = s.spinCnt := by simp [beforeMicro]
@[simp] theorem beforeMicro_dlyCnt : (beforeMicro s).dlyCnt = s.dlyCnt := by simp [beforeMicro]
@[simp] theorem beforeMicro_rspValid : (beforeMicro s).rspValid = false := by simp [beforeMicro]
@[simp] theorem beforeMicro_spinLimit : (beforeMicro s).spinLimit = s.spinLimit := by simp [beforeMicro]
@[simp] theorem beforeMicro_ack : (beforeMicro s).ack = s.ack := by simp [beforeMicro]
@[simp] theorem beforeMicro_pSda : (beforeMicro s).pSda = pullAt s.pSda s.env 0 := by simp [beforeMicro]
@[simp] theorem beforeMicro_env : (beforeMicro s).env = s.env.tail := by simp [beforeMicro]
@[simp] theorem beforeMicro_draws : (beforeMicro s).draws = s.draws := by simp [beforeMicro]
@[simp] theorem beforeMicro_log : (beforeMicro s).log = envEvents s ++ s.log := by simp [beforeMicro]
end

theorem NoReset.beforeMicro {s : State} (h : NoReset s) : NoReset (beforeMicro s) := h.tick.hostWait

/-- Without a reset at the head of the host's list, the engine moves when BUSY = 1 and the host
when BUSY = 0 (R42). -/
theorem chooseMove_of_no_reset {s : State} (h : NoReset s) :
    chooseMove s = if s.busy then engineMove s else hostMove s := by
  unfold chooseMove
  split
  · rename_i rest heq
    exact absurd rfl (h .reset (by rw [heq]; simp))
  · rfl

/-- A busy machine performs the micro-operation at UPC of the command in progress. -/
theorem step_busy {s : State} {i : Instr} (hn : NoReset s) (hb : s.busy = true)
    (hi : currentInstr s = some i) : step s = microStep (commandOf i) (beforeMicro s) := by
  have hi' : currentInstr (tick s) = some i := by
    rw [← hi]
    exact currentInstr_congr (by simp) (by simp)
  unfold step
  rw [chooseMove_of_no_reset hn.tick]
  simp only [tick_busy, hb, if_true, engineMove, hi', exec_eq]
  exact runCommand_busy (by simp [hb])

/-- An idle machine whose host offers a command accepts it. -/
theorem step_accept {s : State} {w : Word} {rest : List HostMove} {i : Instr} (hb : s.busy = false)
    (hh : s.host = .issue w :: rest) (hd : decode? w = some i) :
    step s = .next (accept (commandOf i) { tick s with host := rest }) := by
  unfold step chooseMove
  simp only [tick_host, hh, tick_busy, hb, hostMove, hd, exec_eq]
  exact runCommand_idle rfl

/-- An idle machine whose host offers an illegal word consumes it. -/
theorem step_illegal {s : State} {w : Word} {rest : List HostMove} (hb : s.busy = false)
    (hh : s.host = .issue w :: rest) (hd : decode? w = none) :
    step s = .next (rejectWord { tick s with host := rest }) := by
  unfold step chooseMove
  simp only [tick_host, hh, tick_busy, hb, hostMove, hd]
  rfl

/-- A reset wins over everything. -/
theorem step_reset {s : State} {rest : List HostMove} (hh : s.host = .reset :: rest) :
    step s = .next (applyReset { tick s with host := rest }) := by
  unfold step chooseMove
  simp only [tick_host, hh]

/-- All a step can be, when it answers a next state. -/
theorem step_next {s t : State} (h : step s = .next t) :
    (∃ rest, s.host = .reset :: rest ∧ t = applyReset { tick s with host := rest }) ∨
    (∃ i, s.busy = true ∧ currentInstr s = some i ∧
      microStep (commandOf i) (beforeMicro s) = .next t) ∨
    (∃ w rest i, s.busy = false ∧ s.host = .issue w :: rest ∧ decode? w = some i ∧
      t = accept (commandOf i) { tick s with host := rest }) ∨
    (∃ w rest, s.busy = false ∧ s.host = .issue w :: rest ∧ decode? w = none ∧
      t = rejectWord { tick s with host := rest }) ∨
    (s.busy = false ∧ t = beforeMicro s) := by
  by_cases hr : ∃ rest, s.host = .reset :: rest
  · obtain ⟨rest, hh⟩ := hr
    rw [step_reset hh] at h
    cases h
    exact .inl ⟨rest, hh, rfl⟩
  have hc : chooseMove (tick s) = if s.busy then engineMove (tick s) else hostMove (tick s) := by
    unfold chooseMove
    split
    · rename_i rest heq
      exact absurd ⟨rest, by simpa using heq⟩ hr
    · simp
  unfold step at h
  rw [hc] at h
  cases hb : s.busy with
  | true =>
    have hi' : currentInstr (tick s) = currentInstr s := currentInstr_congr (by simp) (by simp)
    simp only [hb, if_true, engineMove, hi'] at h
    cases hi : currentInstr s with
    | none => simp [hi] at h
    | some i =>
      simp only [hi, exec_eq] at h
      rw [runCommand_busy (by simp [hb])] at h
      exact .inr (.inl ⟨i, rfl, rfl, h⟩)
  | false =>
    simp only [hb, Bool.false_eq_true, if_false, hostMove, tick_host] at h
    cases hh : s.host with
    | nil =>
      simp only [hh] at h
      cases h
      exact .inr (.inr (.inr (.inr ⟨rfl, rfl⟩)))
    | cons m rest =>
      cases m with
      | reset => exact absurd ⟨rest, hh⟩ hr
      | wait =>
        simp only [hh] at h
        cases h
        exact .inr (.inr (.inr (.inr ⟨rfl, rfl⟩)))
      | issue w =>
        simp only [hh] at h
        cases hd : decode? w with
        | none =>
          simp only [hd] at h
          cases h
          exact .inr (.inr (.inr (.inl ⟨w, rest, rfl, rfl, hd, rfl⟩)))
        | some i =>
          simp only [hd, exec_eq] at h
          rw [runCommand_idle (by simp [hb])] at h
          cases h
          exact .inr (.inr (.inl ⟨w, rest, i, rfl, rfl, hd, rfl⟩))

/-! ## Runs -/

@[simp] theorem runSteps_zero (s : State) : runSteps 0 s = .next s := rfl

theorem runSteps_succ (k : Nat) (s : State) :
    runSteps (k + 1) s = (match step s with
      | .next t => runSteps k t
      | .fault r => .fault r
      | .refused r => .refused r) := rfl

theorem runSteps_succ_of {k : Nat} {s t : State} (h : step s = .next t) :
    runSteps (k + 1) s = runSteps k t := by
  rw [runSteps_succ, h]

theorem runSteps_add {a b : Nat} {s t : State} (h : runSteps a s = .next t) :
    runSteps (a + b) s = runSteps b t := by
  induction a generalizing s with
  | zero =>
    cases h
    simp
  | succ a ih =>
    rw [runSteps_succ] at h
    rw [Nat.add_right_comm, runSteps_succ]
    split at h
    · exact ih h
    · cases h
    · cases h

end Sys2Proof.Machine
end

