-- ==== Sys2Proof/Laws/Run.lean ====
section
/-! SUPPORT. Running a stretch of a micro-program: a stretch without a spin is a fold of its
micro-operations, one step each, and a spin is its samples. -/

namespace Sys2Proof.Machine

/-- One step of a busy machine without its sequencing: the environment and the host move, then the
micro-operation is performed. -/
def plain (s : State) (m : MicroOp) : State := perform m (beforeMicro s)

section
variable (s : State) (m : MicroOp)
@[simp] theorem plain_busy : (plain s m).busy = s.busy := by simp [plain]
@[simp] theorem plain_curOp : (plain s m).curOp = s.curOp := by simp [plain]
@[simp] theorem plain_curArg : (plain s m).curArg = s.curArg := by simp [plain]
@[simp] theorem plain_upc : (plain s m).upc = s.upc := by simp [plain]
@[simp] theorem plain_result : (plain s m).result = s.result := by simp [plain]
@[simp] theorem plain_ackf : (plain s m).ackf = s.ackf := by simp [plain]
@[simp] theorem plain_err : (plain s m).err = s.err := by simp [plain]
@[simp] theorem plain_rspValid : (plain s m).rspValid = false := by simp [plain]
@[simp] theorem plain_spinLimit : (plain s m).spinLimit = s.spinLimit := by simp [plain]
@[simp] theorem plain_pSda : (plain s m).pSda = pullAt s.pSda s.env 0 := by simp [plain]
@[simp] theorem plain_env : (plain s m).env = s.env.tail := by simp [plain]
end

theorem NoReset.plain {s : State} (h : NoReset s) (m : MicroOp) : NoReset (plain s m) :=
  h.beforeMicro.of_host (by simp [Machine.plain])

theorem currentInstr_plain (s : State) (m : MicroOp) :
    currentInstr (plain s m) = currentInstr s := currentInstr_congr (by simp) (by simp)

/-- A fold of micro-operations is one after the other. -/
def plainRun (s : State) (ms : List MicroOp) : State := ms.foldl plain s

@[simp] theorem plainRun_nil (s : State) : plainRun s [] = s := rfl

@[simp] theorem plainRun_cons (s : State) (m : MicroOp) (ms : List MicroOp) :
    plainRun s (m :: ms) = plainRun (plain s m) ms := rfl

theorem plainRun_append (s : State) (ms ms' : List MicroOp) :
    plainRun s (ms ++ ms') = plainRun (plainRun s ms) ms' := by
  unfold plainRun
  rw [List.foldl_append]

section
variable (s : State) (ms : List MicroOp)
@[simp] theorem plainRun_busy : (plainRun s ms).busy = s.busy := by
  induction ms generalizing s <;> simp_all
@[simp] theorem plainRun_curOp : (plainRun s ms).curOp = s.curOp := by
  induction ms generalizing s <;> simp_all
@[simp] theorem plainRun_curArg : (plainRun s ms).curArg = s.curArg := by
  induction ms generalizing s <;> simp_all
@[simp] theorem plainRun_upc : (plainRun s ms).upc = s.upc := by
  induction ms generalizing s <;> simp_all
@[simp] theorem plainRun_result : (plainRun s ms).result = s.result := by
  induction ms generalizing s <;> simp_all
@[simp] theorem plainRun_ackf : (plainRun s ms).ackf = s.ackf := by
  induction ms generalizing s <;> simp_all
@[simp] theorem plainRun_err : (plainRun s ms).err = s.err := by
  induction ms generalizing s <;> simp_all
@[simp] theorem plainRun_spinLimit : (plainRun s ms).spinLimit = s.spinLimit := by
  induction ms generalizing s <;> simp_all
end

theorem NoReset.plainRun {s : State} (h : NoReset s) (ms : List MicroOp) :
    NoReset (plainRun s ms) := by
  induction ms generalizing s with
  | nil => exact h
  | cons m ms ih => exact ih (h.plain m)

theorem currentInstr_plainRun (s : State) (ms : List MicroOp) :
    currentInstr (plainRun s ms) = currentInstr s := currentInstr_congr (by simp) (by simp)

/-- The environment after a stretch is the environment before it, that many steps on. -/
theorem pullAt_plainRun (s : State) (ms : List MicroOp) (k : Nat) :
    pullAt (plainRun s ms).pSda (plainRun s ms).env k = pullAt s.pSda s.env (ms.length + k) := by
  induction ms generalizing s with
  | nil => simp
  | cons m ms ih =>
    rw [plainRun_cons, ih, plain_pSda, plain_env, pullAt_tail]
    congr 1
    simp
    omega

/-! ## The trace of a stretch -/

/-- The trace symbols a stretch leaves. -/
def stretchTrace (s : State) (ms : List MicroOp) : List TraceOp :=
  match ms with
  | [] => []
  | m :: ms => traceOf m (beforeMicro s) :: stretchTrace (plain s m) ms

@[simp] theorem stretchTrace_nil (s : State) : stretchTrace s [] = [] := rfl

@[simp] theorem stretchTrace_cons (s : State) (m : MicroOp) (ms : List MicroOp) :
    stretchTrace s (m :: ms) = traceOf m (beforeMicro s) :: stretchTrace (plain s m) ms := rfl

theorem stretchTrace_length (s : State) (ms : List MicroOp) :
    (stretchTrace s ms).length = ms.length := by
  induction ms generalizing s with
  | nil => rfl
  | cons m ms ih => simp [ih]

theorem stretchTrace_append (s : State) (ms ms' : List MicroOp) :
    stretchTrace s (ms ++ ms') = stretchTrace s ms ++ stretchTrace (plainRun s ms) ms' := by
  induction ms generalizing s with
  | nil => rfl
  | cons m ms ih => simp [ih]

/-- What the step of one micro-operation puts on the record, oldest first: the environment's changes,
if it makes any, and the micro-operation. -/
def stepEvents (s : State) (m : MicroOp) : List Event :=
  (envEvents s).reverse ++
    [.micro (traceOf m (beforeMicro s)) (sclWire (plain s m)) (sdaWire (plain s m))]

/-- What a stretch puts on the record, oldest first. -/
def stretchEvents (s : State) (ms : List MicroOp) : List Event :=
  match ms with
  | [] => []
  | m :: ms => stepEvents s m ++ stretchEvents (plain s m) ms

@[simp] theorem stretchEvents_nil (s : State) : stretchEvents s [] = [] := rfl

@[simp] theorem stretchEvents_cons (s : State) (m : MicroOp) (ms : List MicroOp) :
    stretchEvents s (m :: ms) = stepEvents s m ++ stretchEvents (plain s m) ms := rfl

theorem stretchEvents_append (s : State) (ms ms' : List MicroOp) :
    stretchEvents s (ms ++ ms') = stretchEvents s ms ++ stretchEvents (plainRun s ms) ms' := by
  induction ms generalizing s with
  | nil => rfl
  | cons m ms ih => simp [ih]

theorem plain_log (s : State) (m : MicroOp) :
    (plain s m).log = (stepEvents s m).reverse ++ s.log := by
  simp [plain, stepEvents, perform_log]

/-- The record after a stretch is its events on top of what was there. -/
theorem plainRun_log (s : State) (ms : List MicroOp) :
    (plainRun s ms).log = (stretchEvents s ms).reverse ++ s.log := by
  induction ms generalizing s with
  | nil => rfl
  | cons m ms ih => simp [ih, plain_log]

/-- The environment's entries are moves on the bus, and no micro-operations. -/
theorem pullEvents_spec (scl : Wire) (drive : Drive) (now : Pull) (ps : List Pull) :
    (∀ e ∈ pullEvents scl drive now ps, onBus e = true) ∧
      opsOf (pullEvents scl drive now ps) = [] := by
  induction ps generalizing now with
  | nil => simp [pullEvents, opsOf]
  | cons p ps ih =>
    unfold pullEvents
    split
    · exact ih now
    · obtain ⟨h1, h2⟩ := ih p
      unfold opsOf at h2 ⊢
      refine ⟨fun e he => ?_, (List.filterMap_cons_none rfl).trans h2⟩
      rcases List.mem_cons.mp he with rfl | he
      · rfl
      · exact h1 e he

theorem envEvents_spec (s : State) :
    (∀ e ∈ envEvents s, onBus e = true) ∧ opsOf (envEvents s).reverse = [] := by
  unfold envEvents
  split
  · simp [opsOf]
  · rename_i ps _ _
    obtain ⟨h1, h2⟩ := pullEvents_spec (sclWire s) (driveSda s) s.pSda ps
    exact ⟨fun e he => h1 e (List.mem_reverse.mp he), by rw [List.reverse_reverse, h2]⟩

/-- The trace of a stretch's events is the stretch's trace. -/
theorem opsOf_stretchEvents (s : State) (ms : List MicroOp) :
    opsOf (stretchEvents s ms) = stretchTrace s ms := by
  induction ms generalizing s with
  | nil => rfl
  | cons m ms ih =>
    have h := (envEvents_spec s).2
    unfold opsOf at *
    simp [stepEvents, ih, List.filterMap_append, h, eventOp]

/-- A stretch puts nothing but moves on the bus on the record. -/
theorem onBus_stretchEvents (s : State) (ms : List MicroOp) :
    ∀ e ∈ stretchEvents s ms, onBus e = true := by
  induction ms generalizing s with
  | nil => simp
  | cons m ms ih =>
    intro e he
    simp only [stretchEvents_cons, stepEvents, List.mem_append, List.mem_reverse,
      List.mem_singleton] at he
    rcases he with (he | rfl) | he
    · exact (envEvents_spec s).1 e he
    · rfl
    · exact ih (plain s m) e he

/-- A contribution that does not change leaves no entry. -/
theorem pullEvents_of_const {scl : Wire} {drive : Drive} {now : Pull} {ps : List Pull}
    (h : ∀ p ∈ ps, p = now) : pullEvents scl drive now ps = [] := by
  induction ps with
  | nil => rfl
  | cons p ps ih =>
    unfold pullEvents
    rw [if_pos (h p (by simp))]
    exact ih (fun q hq => h q (by simp [hq]))

theorem envEvents_of_const {s : State} (h : ∀ ps ∈ s.env, ∀ p ∈ ps, p = s.pSda) :
    envEvents s = [] := by
  unfold envEvents
  split
  · rfl
  · rename_i ps rest hp
    rw [pullEvents_of_const (h ps (by rw [hp]; simp))]
    rfl

/-! ## What an observer reads from a list of events, piece by piece -/

theorem countChanges_append (kind : Wire × Wire → Wire × Wire → Bool) (before : Wire × Wire)
    (es es' : List Event) :
    countChanges kind before (es ++ es') =
      countChanges kind before es + countChanges kind (es.foldl wiresAfter before) es' := by
  induction es generalizing before with
  | nil => simp [countChanges]
  | cons e es ih => simp [countChanges, ih, Nat.add_assoc]

theorem edges_append (before : Wire × Wire) (es es' : List Event) :
    edges before (es ++ es') = edges before es ++ edges (es.foldl wiresAfter before) es' := by
  induction es generalizing before with
  | nil => rfl
  | cons e es ih => simp [edges, ih]

theorem dataAtRises_append (before : Wire × Wire) (es es' : List Event) :
    dataAtRises before (es ++ es') =
      dataAtRises before es ++ dataAtRises (es.foldl wiresAfter before) es' := by
  induction es generalizing before with
  | nil => rfl
  | cons e es ih => simp [dataAtRises, ih]

/-- The environment's moves make no clock edge, and after them the data wire is the one the last of
them makes. -/
theorem pullEvents_wires (scl : Wire) (drive : Drive) (now : Pull) (ps : List Pull) :
    edges (scl, resolve drive now) (pullEvents scl drive now ps) = [] ∧
    dataAtRises (scl, resolve drive now) (pullEvents scl drive now ps) = [] ∧
    (pullEvents scl drive now ps).foldl wiresAfter (scl, resolve drive now) =
      (scl, resolve drive (ps.getLastD now)) := by
  induction ps generalizing now with
  | nil => exact ⟨rfl, rfl, rfl⟩
  | cons p ps ih =>
    rw [List.getLastD_cons]
    unfold pullEvents
    split
    · rename_i hp
      subst hp
      exact ih p
    · exact ih p

theorem envEvents_wires (s : State) :
    edges (wires s) (envEvents s).reverse = [] ∧ dataAtRises (wires s) (envEvents s).reverse = [] ∧
    (envEvents s).reverse.foldl wiresAfter (wires s) = wires (envMove s) := by
  unfold envEvents envMove
  split
  · simp [edges, dataAtRises]
  · rename_i ps _ _
    rw [List.reverse_reverse]
    exact pullEvents_wires (sclWire s) (driveSda s) s.pSda ps

/-! ## A stretch without a spin -/

/-- UPC moved by hand: what no micro-operation reads. -/
def setUpc (k : BitVec 7) (s : State) : State := { s with upc := k }

theorem countDraw_setUpc (k : BitVec 7) (s : State) :
    countDraw (setUpc k s) = setUpc k (countDraw s) := by
  unfold countDraw
  rw [show sdaWire (setUpc k s) = sdaWire s from rfl]
  cases sdaWire s <;> rfl

theorem hostWait_setUpc (k : BitVec 7) (s : State) :
    hostWait (setUpc k s) = setUpc k (hostWait s) := by
  unfold hostWait
  rw [show (setUpc k s).host = s.host from rfl]
  split <;> rfl

theorem tick_setUpc (k : BitVec 7) (s : State) : tick (setUpc k s) = setUpc k (tick s) := by
  unfold tick envMove
  rw [show (setUpc k s).env = s.env from rfl]
  split <;> rfl

theorem perform_setUpc (m : MicroOp) (k : BitVec 7) (s : State) :
    perform m (setUpc k s) = setUpc k (perform m s) := by
  cases m with
  | sampleAcc =>
    exact congrArg (record (.sample (sampledLevel s)))
      (countDraw_setUpc k { s with acc := accumulate s.acc (sampledLevel s) })
  | sampleAck =>
    exact congrArg (record (.sample (sampledLevel s)))
      (countDraw_setUpc k { s with ack := ackOf (sampledLevel s) })
  | spinWhile v =>
    exact congrArg (record (.sample (sampledLevel s)))
      (countDraw_setUpc k { s with spinCnt := s.spinCnt + 1 })
  | _ => rfl

theorem plain_setUpc (k : BitVec 7) (s : State) (m : MicroOp) :
    plain (setUpc k s) m = setUpc k (plain s m) := by
  unfold plain beforeMicro
  rw [tick_setUpc, hostWait_setUpc, perform_setUpc]

theorem plainRun_setUpc (k : BitVec 7) (s : State) (ms : List MicroOp) :
    plainRun (setUpc k s) ms = setUpc k (plainRun s ms) := by
  induction ms generalizing s with
  | nil => rfl
  | cons m ms ih => rw [plainRun_cons, plain_setUpc, ih, plainRun_cons]

/-- Entering an entry that is no spin moves UPC and nothing else. -/
theorem enter_not_spin {c : Command} {k : BitVec 7} {s : State}
    (h : isSpin c.program[k.toNat]? = false) : enter c k s = setUpc k s := by
  unfold enter
  rw [h]
  rfl

/-- No micro-program is longer than UPC can count. -/
theorem program_length_le (i : Instr) : (commandOf i).program.length ≤ 88 := by
  cases i with
  | i2cRead a => cases a <;> decide
  | i2cWrite b => exact (by decide : i2cWriteProgram.length ≤ 88)
  | shtCmd b => exact (by decide : shtCmdProgram.length ≤ 88)
  | _ => decide

/-- The step of a busy machine at a micro-operation that is no spin. -/
theorem step_plain {s : State} {i : Instr} {m : MicroOp} (hn : NoReset s) (hb : s.busy = true)
    (hi : currentInstr s = some i) (hm : (commandOf i).program[s.upc.toNat]? = some m)
    (hs : isSpin (some m) = false) : step s = .next (advance (commandOf i) (plain s m)) := by
  rw [step_busy hn hb hi]
  exact microStep_plain (by simpa using hm) hs

/-- A stretch of micro-operations without a spin that does not end the micro-program. -/
theorem run_stretch (i : Instr) (pre ms post : List MicroOp) (s : State) (hn : NoReset s)
    (hb : s.busy = true) (hi : currentInstr s = some i)
    (hp : (commandOf i).program = pre ++ ms ++ post) (hu : s.upc.toNat = pre.length)
    (hms : ms ≠ []) (hpost : post ≠ []) (hs : ∀ m ∈ ms, isSpin (some m) = false) :
    runSteps ms.length s = .next
      (enter (commandOf i) (BitVec.ofNat 7 (pre.length + ms.length)) (plainRun s ms)) := by
  induction ms generalizing pre s with
  | nil => exact absurd rfl hms
  | cons m ms ih =>
    have hlen : (commandOf i).program.length = pre.length + (ms.length + 1) + post.length := by
      rw [hp]
      simp
      omega
    have hle := program_length_le i
    have hpl : 0 < post.length := List.length_pos_iff.mpr hpost
    have hm : (commandOf i).program[s.upc.toNat]? = some m := by
      rw [hp, hu]
      simp
    have hadv : advance (commandOf i) (plain s m) =
        enter (commandOf i) (BitVec.ofNat 7 (pre.length + 1)) (plain s m) := by
      rcases advance_cases (commandOf i) (plain s m) with ⟨_, h⟩ | ⟨h, _⟩
      · rw [h]
        congr 1
        apply BitVec.eq_of_toNat_eq
        simp [hu]
      · simp [hu] at h
        omega
    have hstep := step_plain hn hb hi hm (hs m (by simp))
    rw [hadv] at hstep
    rw [List.length_cons, runSteps_succ_of hstep]
    cases ms with
    | nil => simp
    | cons m' ms' =>
      have hk : (BitVec.ofNat 7 (pre.length + 1)).toNat = pre.length + 1 := by
        simp at hlen ⊢
        omega
      have hent : isSpin (commandOf i).program[(BitVec.ofNat 7 (pre.length + 1)).toNat]? = false := by
        rw [hk, hp]
        have : (pre ++ m :: m' :: ms' ++ post)[pre.length + 1]? = some m' := by simp
        rw [this]
        exact hs m' (by simp)
      rw [enter_not_spin hent]
      have := ih (pre := pre ++ [m]) (s := setUpc (BitVec.ofNat 7 (pre.length + 1)) (plain s m))
        ((hn.plain m).of_host rfl) ((plain_busy s m).trans hb)
        (by rw [← hi]; exact (currentInstr_congr rfl rfl).trans (currentInstr_plain s m))
        (by rw [hp]; simp) (hk.trans (by simp)) (by simp) (fun x hx => hs x (by simp [hx]))
      have e : pre.length + ((m' :: ms').length + 1) = (pre ++ [m]).length + (m' :: ms').length := by
        simp
        omega
      rw [this, plainRun_setUpc, e]
      rfl

/-- The last stretch of a micro-program, without a spin: it ends with the command's response. -/
theorem run_last_stretch (i : Instr) (pre ms : List MicroOp) (s : State) (hn : NoReset s)
    (hb : s.busy = true) (hi : currentInstr s = some i)
    (hp : (commandOf i).program = pre ++ ms) (hu : s.upc.toNat = pre.length)
    (hms : ms ≠ []) (hs : ∀ m ∈ ms, isSpin (some m) = false) :
    runSteps ms.length s = .next
      (respond (replyOf (commandOf i).reply (plainRun s ms)) (plainRun s ms)) := by
  obtain ⟨ms', m, rfl⟩ : ∃ ms' m, ms = ms' ++ [m] :=
    ⟨ms.dropLast, ms.getLast hms, (List.dropLast_append_getLast hms).symm⟩
  have hle := program_length_le i
  have hlen : (commandOf i).program.length = pre.length + (ms'.length + 1) := by
    rw [hp]
    simp
  have hlast : ∀ x : State, NoReset x → x.busy = true → currentInstr x = some i →
      x.upc.toNat = pre.length + ms'.length →
      step x = .next (respond (replyOf (commandOf i).reply (plain x m)) (plain x m)) := by
    intro x hxn hxb hxi hxu
    have hm : (commandOf i).program[x.upc.toNat]? = some m := by
      rw [hp, hxu]
      simp [← List.append_assoc]
    rw [step_plain hxn hxb hxi hm (hs m (by simp))]
    rcases advance_cases (commandOf i) (plain x m) with ⟨h, _⟩ | ⟨_, h⟩
    · simp [hxu, hlen] at h
      omega
    · rw [h]
  have hreply : ∀ (x : State) (k : BitVec 7), replyOf (commandOf i).reply (setUpc k x) =
      replyOf (commandOf i).reply x := by
    intro x k
    cases (commandOf i).reply <;> rfl
  cases ms' with
  | nil =>
    have h1 := hlast s hn hb hi (by simpa using hu)
    show runSteps 1 s = _
    rw [runSteps_succ_of h1]
    rfl
  | cons m0 ms0 =>
    have h0 := run_stretch i pre (m0 :: ms0) [m] s hn hb hi (by rw [hp]; simp) hu (by simp)
      (by simp) (fun x hx => hs x (by simp at hx ⊢; tauto))
    have hk : (BitVec.ofNat 7 (pre.length + (m0 :: ms0).length)).toNat =
        pre.length + (m0 :: ms0).length := by
      simp at hlen ⊢
      omega
    have hent : isSpin (commandOf i).program[(BitVec.ofNat 7 (pre.length +
        (m0 :: ms0).length)).toNat]? = false := by
      rw [hk, hp]
      have : (pre ++ (m0 :: ms0 ++ [m]))[pre.length + (m0 :: ms0).length]? = some m := by
        simp
      rw [this]
      exact hs m (by simp)
    rw [enter_not_spin hent] at h0
    have h1 := hlast _ ((hn.plainRun (m0 :: ms0)).of_host
        (t := setUpc (BitVec.ofNat 7 (pre.length + (m0 :: ms0).length)) (plainRun s (m0 :: ms0)))
        rfl) ((plainRun_busy s _).trans hb)
      (by rw [← hi]; exact (currentInstr_congr rfl rfl).trans (currentInstr_plainRun s _)) hk
    have hl : (m0 :: ms0 ++ [m]).length = (m0 :: ms0).length + 1 := by simp
    rw [hl, runSteps_add h0, runSteps_succ_of h1, runSteps_zero, plain_setUpc, hreply,
      plainRun_append]
    rfl

/-- A whole command without a spin, from acceptance to its response. -/
theorem run_spinless (i : Instr) (s : State) (hb : s.busy = false) (hn : NoReset s)
    (hs : ∀ m ∈ (commandOf i).program, isSpin (some m) = false) (hne : (commandOf i).program ≠ []) :
    exec i s = .next (accept (commandOf i) s) ∧
    runSteps (commandOf i).program.length (accept (commandOf i) s) = .next
      (respond (replyOf (commandOf i).reply
        (plainRun (accept (commandOf i) s) (commandOf i).program))
        (plainRun (accept (commandOf i) s) (commandOf i).program)) := by
  refine ⟨by rw [exec_eq, runCommand_idle hb], ?_⟩
  exact run_last_stretch i [] (commandOf i).program (accept (commandOf i) s)
    (hn.of_host (by simp)) (by simp) (currentInstr_accept i s) (by simp) (by simp) hne hs

/-- The record of such a run, and the state after its response. -/
theorem answered_respond (s a : State) (ms : List MicroOp) (r : Response) (hl : a.log = s.log) :
    Answered s (respond r (plainRun a ms)) (stretchEvents a ms) r :=
  ⟨by simp [plainRun_log, hl], onBus_stretchEvents a ms⟩

theorem recorded_respond (s a : State) (ms : List MicroOp) (r : Response) (ops : List TraceOp)
    (hl : a.log = s.log) (ht : stretchTrace a ms = ops) :
    Recorded s (respond r (plainRun a ms)) ops r :=
  ⟨stretchEvents a ms, answered_respond s a ms r hl, by rw [opsOf_stretchEvents, ht]⟩

theorem completed_respond (r : Response) (s : State) : Completed (respond r s) r := by
  simp [Completed]

/-! ## Spins (R106) -/

section
variable (s : State) (v : Level)
@[simp] theorem plain_spin_sclLat : (plain s (.spinWhile v)).sclLat = s.sclLat := by simp [plain, perform]
@[simp] theorem plain_spin_sdaLat : (plain s (.spinWhile v)).sdaLat = s.sdaLat := by simp [plain, perform]
@[simp] theorem plain_spin_sdaDir : (plain s (.spinWhile v)).sdaDir = s.sdaDir := by simp [plain, perform]
@[simp] theorem plain_spin_odEn : (plain s (.spinWhile v)).odEn = s.odEn := by simp [plain, perform]
@[simp] theorem plain_spin_txsr : (plain s (.spinWhile v)).txsr = s.txsr := by simp [plain, perform]
@[simp] theorem plain_spin_acc : (plain s (.spinWhile v)).acc = s.acc := by simp [plain, perform]
@[simp] theorem plain_spin_spinCnt : (plain s (.spinWhile v)).spinCnt = s.spinCnt + 1 := by
  simp [plain, perform]
end

/-- A spin samples the peripherals' level when the line is an input. -/
theorem sampledLevel_beforeMicro_inp {s : State} (h : s.sdaDir = .inp) :
    sampledLevel (beforeMicro s) = pullLevel (pullAt s.pSda s.env 0) := by
  rw [sampledLevel_of_level (sdaWire_inp (s := beforeMicro s) (by simpa using h))]
  simp [pullLevel]

/-- `n` samples that do not end the spin. -/
theorem run_spin_stays (i : Instr) (v : Level) (n : Nat) (s : State) (hn : NoReset s)
    (hb : s.busy = true) (hi : currentInstr s = some i)
    (hm : (commandOf i).program[s.upc.toNat]? = some (.spinWhile v)) (hd : s.sdaDir = .inp)
    (hstay : ∀ j, j < n → pullLevel (pullAt s.pSda s.env j) = v)
    (hlim : ∀ k, s.spinLimit = .samples k → s.spinCnt + n < k) :
    runSteps n s = .next (plainRun s (List.replicate n (.spinWhile v))) := by
  induction n generalizing s with
  | zero => rfl
  | succ n ih =>
    have hv : sampledLevel (beforeMicro s) = v := by
      rw [sampledLevel_beforeMicro_inp hd]
      exact hstay 0 (by omega)
    have hf : flowOf (.spinWhile v) (beforeMicro s) = .stay := by
      simp only [flowOf, hv, ne_eq, not_true_eq_false, if_false, beforeMicro_spinLimit,
        beforeMicro_spinCnt]
      cases hl : s.spinLimit with
      | unlimited => simp [spinLimitReached]
      | samples k =>
        have := hlim k hl
        have hk : s.spinCnt + 1 ≠ k := by omega
        simp [spinLimitReached, hk]
    have hstep : step s = .next (plain s (.spinWhile v)) := by
      rw [step_busy hn hb hi]
      unfold microStep
      rw [beforeMicro_upc, hm]
      simp only [hf]
      rfl
    rw [runSteps_succ_of hstep, List.replicate_succ, plainRun_cons]
    refine ih (plain s (.spinWhile v)) (hn.plain _) (by simpa using hb)
      ((currentInstr_plain s _).trans hi) (by simpa using hm) (by simpa using hd) ?_ ?_
    · intro j hj
      rw [plain_pSda, plain_env, pullAt_tail]
      exact hstay (j + 1) (by omega)
    · intro k hk
      rw [plain_spin_spinCnt]
      have := hlim k (by simpa using hk)
      omega

section
variable (s : State) (v : Level) (n : Nat)
@[simp] theorem plainRun_spin_sclLat : (plainRun s (List.replicate n (.spinWhile v))).sclLat = s.sclLat := by
  induction n generalizing s <;> simp_all [List.replicate_succ]
@[simp] theorem plainRun_spin_sdaLat : (plainRun s (List.replicate n (.spinWhile v))).sdaLat = s.sdaLat := by
  induction n generalizing s <;> simp_all [List.replicate_succ]
@[simp] theorem plainRun_spin_sdaDir : (plainRun s (List.replicate n (.spinWhile v))).sdaDir = s.sdaDir := by
  induction n generalizing s <;> simp_all [List.replicate_succ]
@[simp] theorem plainRun_spin_odEn : (plainRun s (List.replicate n (.spinWhile v))).odEn = s.odEn := by
  induction n generalizing s <;> simp_all [List.replicate_succ]
@[simp] theorem plainRun_spin_txsr : (plainRun s (List.replicate n (.spinWhile v))).txsr = s.txsr := by
  induction n generalizing s <;> simp_all [List.replicate_succ]
@[simp] theorem plainRun_spin_acc : (plainRun s (List.replicate n (.spinWhile v))).acc = s.acc := by
  induction n generalizing s <;> simp_all [List.replicate_succ]
@[simp] theorem plainRun_spin_spinCnt :
    (plainRun s (List.replicate n (.spinWhile v))).spinCnt = s.spinCnt + n := by
  induction n generalizing s with
  | zero => rfl
  | succ n ih =>
    rw [List.replicate_succ, plainRun_cons, ih, plain_spin_spinCnt]
    omega
end

/-- The trace of a stretch of samples of one level. -/
theorem stretchTrace_spin (s : State) (v : Level) (n : Nat) (hd : s.sdaDir = .inp)
    (hstay : ∀ j, j < n → pullLevel (pullAt s.pSda s.env j) = v) :
    stretchTrace s (List.replicate n (.spinWhile v)) = List.replicate n (.sample v) := by
  induction n generalizing s with
  | zero => rfl
  | succ n ih =>
    rw [List.replicate_succ, stretchTrace_cons, List.replicate_succ]
    congr 1
    · simp only [traceOf, sampledLevel_beforeMicro_inp hd]
      rw [hstay 0 (by omega)]
    · refine ih (plain s (.spinWhile v)) (by simpa using hd) ?_
      intro j hj
      rw [plain_pSda, plain_env, pullAt_tail]
      exact hstay (j + 1) (by omega)

/-- A spin of `n` samples, the last of which ends it. -/
theorem run_spin (i : Instr) (v : Level) (n : Nat) (s : State) (hn : NoReset s)
    (hb : s.busy = true) (hi : currentInstr s = some i)
    (hm : (commandOf i).program[s.upc.toNat]? = some (.spinWhile v)) (hd : s.sdaDir = .inp)
    (hstay : ∀ j, j < n → pullLevel (pullAt s.pSda s.env j) = v)
    (hexit : pullLevel (pullAt s.pSda s.env n) = !v)
    (hlim : ∀ k, s.spinLimit = .samples k → s.spinCnt + n < k) :
    runSteps (n + 1) s = .next
      (advance (commandOf i) (plainRun s (List.replicate (n + 1) (.spinWhile v)))) ∧
    stretchTrace s (List.replicate (n + 1) (.spinWhile v)) =
      List.replicate n (.sample v) ++ [.sample (!v)] := by
  have h0 := run_spin_stays i v n s hn hb hi hm hd hstay hlim
  have hd' : (plainRun s (List.replicate n (.spinWhile v))).sdaDir = .inp := by simpa using hd
  have hv : sampledLevel (beforeMicro (plainRun s (List.replicate n (.spinWhile v)))) = !v := by
    rw [sampledLevel_beforeMicro_inp hd', pullAt_plainRun]
    simpa using hexit
  constructor
  · rw [runSteps_add h0]
    have hf : flowOf (.spinWhile v) (beforeMicro (plainRun s (List.replicate n (.spinWhile v)))) =
        .advance := by
      simp [flowOf, hv]
    have hstep : step (plainRun s (List.replicate n (.spinWhile v))) = .next (advance (commandOf i)
        (plain (plainRun s (List.replicate n (.spinWhile v))) (.spinWhile v))) := by
      rw [step_busy (hn.plainRun _) (by simpa using hb) ((currentInstr_plainRun s _).trans hi)]
      unfold microStep
      rw [beforeMicro_upc, plainRun_upc, hm]
      simp only [hf]
      rfl
    rw [runSteps_succ_of hstep, List.replicate_succ', plainRun_append]
    rfl
  · rw [List.replicate_succ', stretchTrace_append, stretchTrace_spin s v n hd hstay]
    simp [traceOf, hv]

/-- A spin that reaches the limit with its n-th sample. -/
theorem run_spin_aborts (i : Instr) (v : Level) (n : Nat) (s : State) (hn : NoReset s)
    (hb : s.busy = true) (hi : currentInstr s = some i)
    (hm : (commandOf i).program[s.upc.toNat]? = some (.spinWhile v)) (hd : s.sdaDir = .inp)
    (hstay : ∀ j, j < n + 1 → pullLevel (pullAt s.pSda s.env j) = v)
    (hlim : s.spinLimit = .samples (s.spinCnt + (n + 1))) :
    runSteps (n + 1) s = .next (respond (errorResponse .spinTimeout)
      (plainRun s (List.replicate (n + 1) (.spinWhile v)))) := by
  have h0 := run_spin_stays i v n s hn hb hi hm hd (fun j hj => hstay j (by omega))
    (fun k hk => by
      rw [hlim] at hk
      cases hk
      omega)
  have hd' : (plainRun s (List.replicate n (.spinWhile v))).sdaDir = .inp := by simpa using hd
  have hv : sampledLevel (beforeMicro (plainRun s (List.replicate n (.spinWhile v)))) = v := by
    rw [sampledLevel_beforeMicro_inp hd', pullAt_plainRun]
    simpa using hstay n (by omega)
  rw [runSteps_add h0]
  have hf : flowOf (.spinWhile v) (beforeMicro (plainRun s (List.replicate n (.spinWhile v)))) =
      .abort .spinTimeout := by
    simp [flowOf, hv, hlim, spinLimitReached]
    omega
  have hstep : step (plainRun s (List.replicate n (.spinWhile v))) =
      .next (respond (errorResponse .spinTimeout)
        (plain (plainRun s (List.replicate n (.spinWhile v))) (.spinWhile v))) := by
    rw [step_busy (hn.plainRun _) (by simpa using hb) ((currentInstr_plainRun s _).trans hi)]
    unfold microStep
    rw [beforeMicro_upc, plainRun_upc, hm]
    simp only [hf]
    rfl
  rw [runSteps_succ_of hstep, List.replicate_succ', plainRun_append]
  rfl

end Sys2Proof.Machine
end

