-- ==== Sys2Proof/Tests/Slice0.lean ====
section
/-! SUPPORT. The model's own tests: expected values from spec/95_test_vectors.md and the rules it
cites, one step each; and, for every statement with hypotheses, a witness that meets them together. -/

namespace Sys2Proof.Tests

open Sys2Proof Sys2Proof.Machine

/-! ## Helpers -/

/-- A state in a pin state of 95_test_vectors.md's notation. -/
def pinned (scl sda : Level) (dir : Dir) (od : Bool) : State :=
  { State.reset with sclLat := scl, sdaLat := sda, sdaDir := dir, odEn := od }

/-- `s` with the command `i` in progress at entry `k` of its micro-program. -/
def during (i : Instr) (k : BitVec 7) (s : State) : State :=
  { s with busy := true, curOp := opOf i, curArg := argOf i, upc := k }

/-- The next state of an outcome, if it is one. -/
def nextOf (o : Host.Outcome State Fault Refusal) : Option State :=
  match o with
  | .next s => some s
  | _ => none

/-- The pin state, as 95_test_vectors.md writes it. -/
def pins (s : State) : Level × Level × Dir × Bool := (s.sclLat, s.sdaLat, s.sdaDir, s.odEn)

/-- S_STA, S_BYTE, S_IDLE, S_SHT and S_RD of 95_test_vectors.md. -/
def sSta : State := pinned false false .out true
def sByte : State := pinned false true .out true
def sIdle : State := pinned true true .out true
def sSht : State := pinned false true .out false
def sRd : State := pinned false false .inp false

/-! ## Well-formedness: each check refuses an ill-formed word's fields -/

/-- 0x0900: bit 11 set, on what would be I2C_START (R84). -/
theorem test_rsv_refused : (fieldsOf 0x0900).rsvOk = false ∧ (fieldsOf 0x0900).wellFormed = false := by decide
/-- 0x00A5: op = 0 (R84). -/
theorem test_op_refused : (fieldsOf 0x00A5).opOk = false ∧ (fieldsOf 0x00A5).wellFormed = false := by decide
/-- 0x0101: a nonzero arg on I2C_START (R84). -/
theorem test_arg_refused :
    (fieldsOf 0x0101).noOperandOk = false ∧ (fieldsOf 0x0101).wellFormed = false := by decide
/-- 0x0380: arg[7] set on I2C_READ (R84). -/
theorem test_high_bits_refused :
    (fieldsOf 0x0380).sendAckOk = false ∧ (fieldsOf 0x0380).wellFormed = false := by decide
/-- 0x02A5 is legal (2.1). -/
theorem test_legal_fields_pass : (fieldsOf 0x02A5).wellFormed = true := by decide

/-! ## Decoding (2.1), the words bit by bit -/

theorem test_decode_i2c_start : decode 0b00000_001_00000000 = .ok .i2cStart := by decide
theorem test_decode_i2c_write : decode 0b00000_010_10100101 = .ok (.i2cWrite 0b10100101) := by decide
theorem test_decode_i2c_write_ff : decode 0b00000_010_11111111 = .ok (.i2cWrite 0b11111111) := by decide
theorem test_decode_i2c_read_nack : decode 0b00000_011_00000000 = .ok (.i2cRead false) := by decide
theorem test_decode_i2c_read_ack : decode 0b00000_011_00000001 = .ok (.i2cRead true) := by decide
theorem test_decode_i2c_stop : decode 0b00000_100_00000000 = .ok .i2cStop := by decide
theorem test_decode_sht_start : decode 0b00000_101_00000000 = .ok .shtStart := by decide
theorem test_decode_sht_cmd : decode 0b00000_110_00000101 = .ok (.shtCmd 0b00000101) := by decide
theorem test_decode_sht_cmd_zero : decode 0b00000_110_00000000 = .ok (.shtCmd 0) := by decide
theorem test_decode_sht_read16 : decode 0b00000_111_00000000 = .ok .shtRead16 := by decide

theorem test_decode_illegal :
    decode 0x0000 = .error .opUnassigned ∧ decode 0x00A5 = .error .opUnassigned ∧
    decode 0x0101 = .error .argNotZero ∧ decode 0x01FF = .error .argNotZero ∧
    decode 0x0302 = .error .argHighBits ∧ decode 0x0380 = .error .argHighBits ∧
    decode 0x0303 = .error .argHighBits ∧ decode 0x0401 = .error .argNotZero ∧
    decode 0x0580 = .error .argNotZero ∧ decode 0x0701 = .error .argNotZero ∧
    decode 0x0800 = .error .reservedBits ∧ decode 0x0A00 = .error .reservedBits ∧
    decode 0x8100 = .error .reservedBits ∧ decode 0xFFFF = .error .reservedBits := by decide

theorem test_encode :
    encode .i2cStart = 0x0100 ∧ encode (.i2cWrite 0xA5) = 0x02A5 ∧ encode (.i2cRead true) = 0x0301 ∧
    encode (.i2cRead false) = 0x0300 ∧ encode .i2cStop = 0x0400 ∧ encode .shtStart = 0x0500 ∧
    encode (.shtCmd 0x05) = 0x0605 ∧ encode .shtRead16 = 0x0700 := by decide

/-- The decoder as the host asks it, for each of the seven rows with operand 0. -/
theorem test_decode_table_words :
    [0x0100, 0x0200, 0x0300, 0x0400, 0x0500, 0x0600, 0x0700].map (decodeTableWord 16) =
      [some .i2cStart, some (.i2cWrite 0), some (.i2cRead false), some .i2cStop, some .shtStart,
        some (.shtCmd 0), some .shtRead16] := by decide

/-! ## Drive, resolution, sample (2.2) -/

/-- The first, second and third row of 2.2: pushed high, contended, released. -/
theorem test_wire_high :
    driveSda (pinned true true .out false) = .high ∧
    sdaWire { pinned true true .out false with pSda := .low } = .contention ∧
    driveSda (pinned true true .out true) = .released ∧
    sampledLevel { pinned true true .out true with pSda := .low } = false := by decide

/-- The fifth to eighth rows: the engine reads its own low, an input reads the peripherals. -/
theorem test_wire_low :
    sampledLevel (pinned false false .out false) = false ∧
    driveSda (pinned false false .inp false) = .released ∧
    sampledLevel (pinned false false .inp false) = true ∧
    sampledLevel { pinned false false .inp false with pSda := .low } = false := by decide

/-- The pads of the first, third, fifth and seventh row. -/
theorem test_pads :
    padPorts (pinned true true .out false) = (true, true, true, true) ∧
    padPorts (pinned true true .out true) = (false, false, false, false) ∧
    padPorts (pinned false false .out false) = (true, false, true, false) ∧
    padPorts (pinned false false .inp false) = (true, false, false, false) := by decide

/-- V-L1: latch and direction are independent. -/
theorem test_latch_without_direction :
    pins (setSda false (pinned false true .inp false)) = (false, false, .inp, false) ∧
    sdaWire (setSda false (pinned false true .inp false)) = .level true ∧
    sdaWire (setDir .out (pinned false false .inp false)) = .level false := by decide

/-- V-L2: SetOD ends contention. -/
theorem test_open_drain_ends_contention :
    sdaWire { State.reset with pSda := .low } = .contention ∧
    sdaWire (setOd { State.reset with pSda := .low }) = .level false := by decide

/-! ## Arithmetic (2.3) -/

/-- V-A1. -/
theorem test_shift :
    [shiftTx 0xA5, shiftTx 0x4A, shiftTx 0x94, shiftTx 0x28, shiftTx 0x50, shiftTx 0xA0, shiftTx 0x40,
      shiftTx 0x80] = [0x4A, 0x94, 0x28, 0x50, 0xA0, 0x40, 0x80, 0x00] := by decide

/-- V-A3. -/
theorem test_accumulate_byte :
    [false, false, true, true, true, true, false, false].foldl accumulate 0 = 0x003C := by decide

/-- V-A4. -/
theorem test_accumulate_word :
    [true, false, true, true, true, true, true, false,
      true, true, true, false, true, true, true, true].foldl accumulate 0 = 0xBEEF := by decide

/-- V-A5, and the codes of R31. -/
theorem test_ack_and_codes :
    ackOf false = true ∧ ackOf true = false ∧ errBits .ok = 0 ∧ errBits .illegalCmd = 1 ∧
    errBits .spinTimeout = 2 := by decide

/-- R170 at 1 MHz and at a frequency that does not divide. -/
theorem test_delay_counts :
    delayCount 1000000 .us2 = 2 ∧ delayCount 32768 .us10 = 1 ∧ delayCount 1500000 .us5 = 8 := by decide

/-- R2's identity, written out. -/
theorem test_identity :
    (Config.identity.block, Config.identity.repository, Config.identity.extensions) =
      ("TA2W", "jstowe3/Thermostat_Alert", []) := by decide

/-! ## What an observer finds (R66) -/

/-- A fall of data that the environment makes while the clock is high is a START, also in a step that
then drops the clock. -/
theorem test_environment_makes_a_start :
    (nextOf (step { during .i2cStart 7 sIdle with env := [[.low]] })).map
      (fun t => (countChanges isStart (wires sIdle) t.log.reverse,
        edges (wires sIdle) t.log.reverse)) = some (1, [.fall]) := by decide

/-- A pull made and undone between two micro-operations, with the clock high: one START and one STOP,
and the sample that follows sees the line released (R58, R63). -/
theorem test_environment_moves_twice_in_a_step :
    (nextOf (step { during (.i2cRead true) 5 sIdle with env := [[.low, .released]] })).map
      (fun t => (countChanges isStart (wires sIdle) t.log.reverse,
        countChanges isStop (wires sIdle) t.log.reverse, t.acc)) = some (1, 1, 1) := by decide

/-- A reset that raises a low clock makes no rising edge, and with data raised at once no STOP. -/
theorem test_reset_is_no_edge :
    (nextOf (step { sSta with host := [.reset] })).map
      (fun t => (edges (wires sSta) t.log.reverse, countChanges isStop (wires sSta) t.log.reverse,
        wires t)) = some ([], 0, (.level true, .level true)) := by decide

/-- A pulse is a rising edge and the next falling edge: V-H3's one pulse, and one left open. -/
theorem test_pulses : pulses [.rise, .fall] = 1 ∧ pulses [.fall, .rise, .fall, .rise] = 1 := by decide

/-! ## One step of each command -/

/-- R120: the first micro-operation of I2C_START is SetOD; contention becomes 0 (V-L2). -/
theorem test_i2c_start_opens_drain :
    (nextOf (exec .i2cStart (during .i2cStart 0 State.reset))).map pins =
      some (true, true, .out, true) := by decide

/-- R120: data falls while the clock is high at entry 5, the START signature. -/
theorem test_i2c_start_signature :
    (nextOf (exec .i2cStart (during .i2cStart 5 sIdle))).map (fun t => isStart (wires sIdle) (wires t)) =
      some true := by decide

/-- R121: the first data bit of 0xA5 is 1. -/
theorem test_i2c_write_first_bit :
    (nextOf (exec (.i2cWrite 0xA5) (during (.i2cWrite 0xA5) 0 { sSta with txsr := 0xA5 }))).map pins =
      some (false, true, .out, true) := by decide

/-- V-W1, V-X1: the ninth slot's sample is inverted into the response's acknowledge. -/
theorem test_i2c_write_acknowledge :
    (nextOf (exec (.i2cWrite 0xA5) (during (.i2cWrite 0xA5) 52 { sIdle with pSda := .low }))).map (·.ack) =
      some true ∧
    (nextOf (exec (.i2cWrite 0xA5) (during (.i2cWrite 0xA5) 54 { sByte with ack := true }))).map
      (fun t => (t.result, t.ackf, t.err, t.busy)) = some (0, true, .ok, false) := by decide

/-- V-R1: the third accumulate of 0x3C. -/
theorem test_i2c_read_sample :
    (nextOf (exec (.i2cRead true) (during (.i2cRead true) 17 { sIdle with acc := 0x0000 }))).map (·.acc) =
      some 0x0001 := by decide

/-- V-R1, V-R2, E2: the acknowledge slot is driven low for send_ack = 1 and released for 0. -/
theorem test_i2c_read_ack_slot :
    (nextOf (exec (.i2cRead true) (during (.i2cRead true) 50 sByte))).map sdaWire = some (.level false) ∧
    (nextOf (exec (.i2cRead false) (during (.i2cRead false) 50 sByte))).map sdaWire =
      some (.level true) := by decide

/-- V-SP1: data rises while the clock is high, the STOP signature. -/
theorem test_i2c_stop_signature :
    (nextOf (exec .i2cStop (during .i2cStop 4 (pinned true false .out true)))).map
      (fun t => isStop (wires (pinned true false .out true)) (wires t)) = some true := by decide

/-- V-SP1: the last step leaves (1, 1) and answers (0, 0, OK). -/
theorem test_i2c_stop_completes :
    (nextOf (exec .i2cStop (during .i2cStop 5 sIdle))).map
      (fun t => (pins t, t.result, t.ackf, t.err, t.rspValid)) =
      some ((true, true, .out, true), 0, false, .ok, true) := by decide

/-- V-SS2: the stale latch 0 reaches the wire at `Zo`. -/
theorem test_sht_start_stale_latch :
    sdaWire sRd = .level true ∧
    (nextOf (exec .shtStart (during .shtStart 0 sRd))).map sdaWire = some (.level false) := by decide

/-- V-SS1: the last step drops the clock; (0, 1, OUT). -/
theorem test_sht_start_completes :
    (nextOf (exec .shtStart (during .shtStart 7 (pinned true true .out false)))).map
      (fun t => (pins t, t.busy)) = some ((false, true, .out, false), false) := by decide

/-- V-C2 and V-A6: the first spin samples on while data is high and ends at a low. -/
theorem test_sht_cmd_spin :
    (nextOf (exec (.shtCmd 0x03) (during (.shtCmd 0x03) 42 sRd))).map (fun t => (t.upc, t.spinCnt)) =
      some (42, 1) ∧
    (nextOf (exec (.shtCmd 0x03) (during (.shtCmd 0x03) 42 { sRd with pSda := .low }))).map (·.upc) =
      some 43 := by decide

/-- V-C6: the third sample of a spin with limit 3 aborts. V-C7: one that ends it does not. -/
theorem test_sht_cmd_limit :
    (nextOf (exec (.shtCmd 0x05) (during (.shtCmd 0x05) 42
      { sRd with spinLimit := .samples 3, spinCnt := 2 }))).map (fun t => (t.err, t.busy)) =
      some (.spinTimeout, false) ∧
    (nextOf (exec (.shtCmd 0x05) (during (.shtCmd 0x05) 42
      { sRd with spinLimit := .samples 3, spinCnt := 2, pSda := .low }))).map (·.upc) =
      some 43 := by decide

/-- V-S1: the last sample of 0xBEEF (V-A4), taken at entry 86. -/
theorem test_sht_read16_sample :
    (nextOf (exec .shtRead16 (during .shtRead16 86 { pinned true false .inp false with acc := 0x5F77 }))).map
      (·.acc) = some 0xBEEF := by decide

/-- V-S1: the last step answers (0xBEEF, 0, OK) and leaves S_RD. -/
theorem test_sht_read16_completes :
    (nextOf (exec .shtRead16 (during .shtRead16 87 { pinned true false .inp false with acc := 0xBEEF }))).map
      (fun t => (pins t, t.result, t.ackf, t.err)) =
      some ((false, false, .inp, false), 0xBEEF, false, .ok) := by decide

/-! ## Acceptance, illegal words, reset, the host's hooks -/

/-- R41, R114, V-R8: acceptance clears ACC and latches the command; pins stay. -/
theorem test_accept_read :
    (nextOf (step ({ sByte with acc := 0xFFFF }.withFetchWord 16 0x0300))).map
      (fun t => (t.acc, t.curOp, t.curArg)) = some (0, 3, 0) ∧
    (nextOf (step ({ sByte with acc := 0xFFFF }.withFetchWord 16 0x0300))).map
      (fun t => (t.busy, pins t)) = some (true, (false, true, .out, true)) := by decide

/-- Every row's word, placed by `withFetchWord`, is accepted in the first step after reset. -/
theorem test_first_step_accepts :
    [0x0100, 0x0200, 0x0300, 0x0400, 0x0500, 0x0600, 0x0700].map
      (fun w => (nextOf (step (State.reset.withFetchWord 16 w))).map (fun t => (t.busy, t.curOp))) =
      [some (true, 1), some (true, 2), some (true, 3), some (true, 4), some (true, 5), some (true, 6),
        some (true, 7)] := by decide

/-- V-D1: 0x0302 is consumed with (0, 0, ILLEGAL_CMD); BUSY stays 0, pins and TXSR stay. -/
theorem test_illegal_word :
    (nextOf (step { sSta with host := [.issue 0x0302], result := 0x003C, txsr := 0x11 })).map
      (fun t => (t.result, t.ackf, t.err, t.busy)) = some (0, false, .illegalCmd, false) ∧
    (nextOf (step { sSta with host := [.issue 0x0302], result := 0x003C, txsr := 0x11 })).map
      (fun t => (pins t, t.txsr)) = some ((false, false, .out, true), 0x11) := by decide

/-- V-X3: a word offered while BUSY = 1 is not looked at. -/
theorem test_busy_ignores_word :
    (nextOf (step { during .i2cStop 0 sByte with host := [.issue 0x0302] })).map
      (fun t => (t.err, t.busy, t.host)) = some (.ok, true, [.issue 0x0302]) := by decide

/-- V-X6: a reset ends a spinning SHT_CMD with no response. -/
theorem test_reset_ends_a_hang :
    (nextOf (step { during (.shtCmd 3) 42 sRd with host := [.reset], result := 0x1234 })).map
      (fun t => (pins t, t.result, t.busy, t.rspValid, t.upc)) =
      some ((true, true, .out, false), 0, false, false, 0) := by decide

/-! ## Witnesses: for each statement with hypotheses, inputs that meet them together -/

/-- An idle machine whose host asks for nothing. -/
theorem noReset_of_empty {s : State} (h : s.host = []) : NoReset s := by
  intro m hm
  rw [h] at hm
  cases hm

theorem reset_no_reset : NoReset State.reset := noReset_of_empty rfl

theorem sIdle_no_reset : NoReset sIdle := noReset_of_empty rfl

/-- DecodeEncodeRoundTrip, OpcodeTableDecodes: legal words, at both ends of an operand's range. -/
theorem witness_DecodeEncodeRoundTrip :
    decode 0x0200 = .ok (.i2cWrite 0) ∧ decode 0x02FF = .ok (.i2cWrite 0xFF) := by decide

/-- OpcodeTableDecodes: a row and a word it covers. -/
theorem witness_OpcodeTableDecodes :
    { mnemonic := "SHT_CMD", pattern := 0x0600, mask := 0xFF00 } ∈ rows ∧
    Row.covers { mnemonic := "SHT_CMD", pattern := 0x0600, mask := 0xFF00 } 0x06FF = true := by decide

/-- SampleByPinState: a state for each of its five clauses. -/
theorem witness_SampleByPinState :
    (pinned true true .inp false).sdaDir = .inp ∧
    ((pinned true false .out true).sdaDir = .out ∧ (pinned true false .out true).sdaLat = false) ∧
    (sIdle.sdaDir = .out ∧ sIdle.sdaLat = true ∧ sIdle.odEn = true) ∧
    (State.reset.sdaDir = .out ∧ State.reset.sdaLat = true ∧ State.reset.odEn = false ∧
      State.reset.pSda = .released) ∧
    ({ State.reset with pSda := .low }.sdaDir = .out ∧ { State.reset with pSda := .low }.sdaLat = true ∧
      { State.reset with pSda := .low }.odEn = false ∧ { State.reset with pSda := .low }.pSda = .low) := by
  decide

/-- ContentionNeedsPushPull: a contended state, and a step with open-drain on. -/
theorem witness_ContentionNeedsPushPull :
    Contended { State.reset with pSda := .low } ∧
    ∃ t, (during (.i2cRead true) 5 sIdle).odEn = true ∧ step (during (.i2cRead true) 5 sIdle) = .next t :=
  ⟨rfl, _, rfl, rfl⟩

/-- PortsShowTheLatches: a host that offers a word. -/
theorem witness_PortsShowTheLatches : cmdValid { sIdle with host := [.issue 0x0100] } = true := by decide

/-- SetSclWritesTheClockLatch: both output modes. -/
theorem witness_SetSclWritesTheClockLatch : sIdle.odEn = true ∧ State.reset.odEn = false := by decide

/-- SetSdaWritesTheDataLatch: both directions. -/
theorem witness_SetSdaWritesTheDataLatch : sRd.sdaDir = .inp ∧ sIdle.sdaDir = .out := by decide

/-- SetDirWritesTheDirection: a command that performs one. -/
theorem witness_SetDirWritesTheDirection : MicroOp.setDir .out ∈ (commandOf .shtStart).program := by decide

/-- SetOdReleasesDrivenHighs: both lines pushed high, and contention; a mode that stays on. -/
theorem witness_SetOdReleasesDrivenHighs :
    driveSda State.reset = .high ∧ driveScl State.reset = .high ∧
    sdaWire { State.reset with pSda := .low } = .contention ∧ sIdle.odEn = true := by decide

/-- SpinSamplesUntilTheLevelChanges: a sample that differs, one that does not without a limit, one
that does not with a limit (its last and an earlier sample), and a command that spins. -/
theorem witness_SpinSamplesUntilTheLevelChanges :
    sampledLevel { sRd with pSda := .low } ≠ true ∧
    (sampledLevel sRd = true ∧ sRd.spinLimit = .unlimited) ∧
    (sampledLevel { sRd with spinLimit := .samples 1 } = true ∧
      { sRd with spinLimit := .samples 1 }.spinLimit = .samples 1 ∧
      { sRd with spinLimit := .samples 1 }.spinCnt + 1 = 1) ∧
    (sampledLevel { sRd with spinLimit := .samples 2 } = true ∧
      { sRd with spinLimit := .samples 2 }.spinCnt + 1 ≠ 2) ∧
    MicroOp.spinWhile true ∈ (commandOf (.shtCmd 5)).program := by decide

/-- TransmitShiftSendsMsbFirst: the last of its shift counts. -/
theorem witness_TransmitShiftSendsMsbFirst : (7 : Nat) < 8 := by decide

/-- ReceiveAccumulateIsBinary: lists of the longest lengths. -/
theorem witness_ReceiveAccumulateIsBinary :
    (List.replicate 16 true).length ≤ 16 ∧ (List.replicate 8 true).length = 8 := by decide

/-- AcknowledgeInvertsTheSample: a command that samples an acknowledge. -/
theorem witness_AcknowledgeInvertsTheSample :
    MicroOp.sampleAck ∈ (commandOf (.i2cWrite 0)).program := by decide

/-- StepRunsTheDecodedCommand: an idle machine with a legal word, a busy one, a table word. -/
theorem witness_StepRunsTheDecodedCommand :
    (sIdle.busy = false ∧ { sIdle with host := [.issue 0x0100] }.host = .issue 0x0100 :: [] ∧
      decode 0x0100 = .ok .i2cStart) ∧
    ((during .shtRead16 87 sRd).busy = true ∧ (∀ rest, (during .shtRead16 87 sRd).host ≠ .reset :: rest) ∧
      currentInstr (during .shtRead16 87 sRd) = some .shtRead16) ∧
    decodeTableWord 16 0x0301 = some (.i2cRead true) := by
  refine ⟨by decide, ⟨rfl, fun rest h => ?_, by decide⟩, by decide⟩
  cases h

/-- AcceptanceLatchesTheCommand: an idle machine, and commands that use a working register. -/
theorem witness_AcceptanceLatchesTheCommand :
    State.reset.busy = false ∧ MicroOp.setSda .txMsb ∈ (commandOf (.i2cWrite 0)).program ∧
    MicroOp.sampleAcc ∈ (commandOf .shtRead16).program := by decide

/-- EarlierWorkingRegistersDoNotMatter: an idle machine that is offered a command. -/
theorem witness_EarlierWorkingRegistersDoNotMatter :
    { sIdle with host := [.issue 0x0300] }.busy = false := by decide

/-- IllegalWordIsConsumed: V-D1's word offered to an idle machine. -/
theorem witness_IllegalWordIsConsumed :
    { sSta with host := [.issue 0x0302] }.busy = false ∧
    { sSta with host := [.issue 0x0302] }.host = .issue 0x0302 :: [] ∧
    decode 0x0302 = .error .argHighBits := by decide

/-- BusyIgnoresTheOfferedWord: a busy machine whose step answers a next state. -/
theorem witness_BusyIgnoresTheOfferedWord :
    (during .i2cStop 0 sByte).busy = true ∧
    ∃ t, step { during .i2cStop 0 sByte with host := .issue 0x0100 :: [] } = .next t := ⟨rfl, _, rfl⟩

/-- ResetWinsOverEverything: a busy machine, the host asking for a reset. -/
theorem witness_ResetWinsOverEverything :
    { during (.shtCmd 3) 42 sRd with host := [.reset] }.host = .reset :: [] := by decide

/-- IdleMachineHoldsItsLines: both of its ways to be offered nothing. -/
theorem witness_IdleMachineHoldsItsLines :
    (sIdle.busy = false ∧ sIdle.host = []) ∧
    ({ sIdle with host := [.wait] }.busy = false ∧ { sIdle with host := [.wait] }.host = .wait :: []) := by
  decide

/-- CompletionWritesTheResponse: a last micro-operation, and an abort. -/
theorem witness_CompletionWritesTheResponse :
    (∃ t, (during .i2cStop 5 sIdle).busy = true ∧ exec .i2cStop (during .i2cStop 5 sIdle) = .next t ∧
      t.busy = false) ∧
    (∃ t, (during (.shtCmd 5) 42 { sRd with spinLimit := .samples 1 }).busy = true ∧
      exec (.shtCmd 5) (during (.shtCmd 5) 42 { sRd with spinLimit := .samples 1 }) = .next t ∧
      t.busy = false) := ⟨⟨_, rfl, rfl, rfl⟩, ⟨_, rfl, rfl, rfl⟩⟩

/-- ResponseHoldsUntilTheNextCompletion, StrobeMarksTheCompletion: a step. -/
theorem witness_ResponseHoldsUntilTheNextCompletion :
    ∃ t, step (during .i2cStop 0 sByte) = .next t := ⟨_, rfl⟩

/-- BusySpansTheCommand: a step in which BUSY rises and one in which it falls. -/
theorem witness_BusySpansTheCommand :
    (∃ t, step { sIdle with host := [.issue 0x0100] } = .next t ∧ sIdle.busy = false ∧ t.busy = true) ∧
    (∃ t, step (during .i2cStop 5 sIdle) = .next t ∧ (during .i2cStop 5 sIdle).busy = true ∧
      t.busy = false) := ⟨⟨_, rfl, rfl, rfl⟩, ⟨_, rfl, rfl, rfl⟩⟩

/-- OneMicroOperationAStep: a busy machine at the last entry of the longest micro-program. -/
theorem witness_OneMicroOperationAStep :
    (during .shtRead16 87 sRd).busy = true ∧ (∀ rest, (during .shtRead16 87 sRd).host ≠ .reset :: rest) ∧
    currentInstr (during .shtRead16 87 sRd) = some .shtRead16 ∧
    ∃ t, step (during .shtRead16 87 sRd) = .next t := by
  refine ⟨rfl, fun rest h => ?_, by decide, _, rfl⟩
  cases h

/-- I2cStartRuns, I2cWriteRuns, I2cReadRuns, I2cStopRuns, ShtStartRuns, ShtRead16Runs and
I2cCommandsAlwaysComplete: the machine right after reset. -/
theorem witness_runs : State.reset.busy = false ∧ NoReset State.reset := ⟨rfl, reset_no_reset⟩

/-- I2cWriteRuns: pushed high and pulled, and not so. -/
theorem witness_I2cWriteRuns :
    (PushesHigh State.reset ∧ pullAt .low [] 52 = .low) ∧ ¬(PushesHigh sIdle ∧ pullAt .low [] 52 = .low) := by
  refine ⟨⟨⟨rfl, rfl⟩, rfl⟩, fun h => ?_⟩
  cases h.1.2

/-- I2cReadRuns: the first and the last sample's conditions. -/
theorem witness_I2cReadRuns :
    (0 < 8 ∧ ¬(PushesHigh sIdle ∧ pullAt .low [] (6 * 0 + 5) = .low)) ∧
    (7 < 8 ∧ ¬(PushesHigh sIdle ∧ pullAt .low [] (6 * 7 + 5) = .low)) :=
  ⟨⟨by decide, fun h => by cases h.1.2⟩, ⟨by decide, fun h => by cases h.1.2⟩⟩

/-- A sensor that lets each of the three spins end at its second sample (V-C8's shape). -/
def sensor : State :=
  { sSht with
    env := List.replicate 43 [.released] ++
      [[.low], [.released], [.released], [.low], [.released], [.released], [.low]],
    spinLimit := .samples 2 }

/-- ShtCmdRuns: all its conditions together, with spins of two samples and a limit of two. -/
theorem witness_ShtCmdRuns :
    sensor.busy = false ∧ NoReset sensor ∧ 1 ≤ 2 ∧
    (∀ n, sensor.spinLimit = .samples n → 2 ≤ n ∧ 2 ≤ n ∧ 2 ≤ n) ∧
    (∀ j, j + 1 < 2 → pullAt sensor.pSda sensor.env (42 + j) = .released) ∧
    pullAt sensor.pSda sensor.env (41 + 2) = .low ∧
    (∀ j, j + 1 < 2 → pullAt sensor.pSda sensor.env (44 + 2 + j) = .low) ∧
    pullAt sensor.pSda sensor.env (43 + 2 + 2) = .released ∧
    (∀ j, j + 1 < 2 → pullAt sensor.pSda sensor.env (44 + 2 + 2 + j) = .released) ∧
    pullAt sensor.pSda sensor.env (43 + 2 + 2 + 2) = .low := by
  refine ⟨rfl, noReset_of_empty rfl, by decide, fun n h => ?_, fun j hj => ?_, rfl, fun j hj => ?_,
    rfl, fun j hj => ?_, rfl⟩
  · cases h
    decide
  all_goals
    obtain rfl : j = 0 := by omega
    rfl

/-- ShtCmdTimesOut: the smallest limit, and nobody on the bus. -/
theorem witness_ShtCmdTimesOut :
    { sSht with spinLimit := .samples 1 }.busy = false ∧ NoReset { sSht with spinLimit := .samples 1 } ∧
    1 ≤ 1 ∧ { sSht with spinLimit := .samples 1 }.spinLimit = .samples 1 ∧
    (∀ j, j < 1 → pullAt sSht.pSda sSht.env (42 + j) = .released) := by
  refine ⟨rfl, noReset_of_empty rfl, by decide, rfl, fun j hj => ?_⟩
  obtain rfl : j = 0 := by omega
  rfl

/-- EverySpinCanTimeOut: each of the three spins at its last sample. -/
theorem witness_EverySpinCanTimeOut :
    ((during (.shtCmd 5) 42 { sRd with spinLimit := .samples 1 }).busy = true ∧
      { sRd with spinLimit := .samples 1 }.spinLimit = .samples (sRd.spinCnt + 1) ∧
      sampledLevel (during (.shtCmd 5) 42 { sRd with spinLimit := .samples 1 }) = true) ∧
    sampledLevel (during (.shtCmd 5) 45 { sRd with spinLimit := .samples 1, pSda := .low }) = false ∧
    sampledLevel (during (.shtCmd 5) 46 { sRd with spinLimit := .samples 1 }) = true := by decide

/-- ShtCmdHangsWithoutADevice: nobody on the bus, no limit. -/
theorem witness_ShtCmdHangsWithoutADevice :
    sSht.busy = false ∧ NoReset sSht ∧ QuietBus sSht ∧ sSht.spinLimit = .unlimited :=
  ⟨rfl, noReset_of_empty rfl, ⟨rfl, (fun ps hp => by cases hp)⟩, rfl⟩

/-- I2cFrame: a move of each of its four commands, one of them ending its command. -/
theorem witness_I2cFrame :
    (∃ t, exec .i2cStart (during .i2cStart 0 State.reset) = .next t) ∧
    (∃ t, exec (.i2cWrite 0xA5) (during (.i2cWrite 0xA5) 5 sSta) = .next t) ∧
    (∃ t, exec (.i2cRead true) sByte = .next t) ∧
    (∃ t, exec .i2cStop (during .i2cStop 5 sIdle) = .next t) :=
  ⟨⟨_, rfl⟩, ⟨_, rfl⟩, ⟨_, rfl⟩, ⟨_, rfl⟩⟩

/-- ShtFrame: a move of each of its three commands. -/
theorem witness_ShtFrame :
    (∃ t, exec .shtStart (during .shtStart 0 sRd) = .next t) ∧
    (∃ t, exec (.shtCmd 5) sSht = .next t) ∧
    (∃ t, exec .shtRead16 (during .shtRead16 86 (pinned true false .inp false)) = .next t) :=
  ⟨⟨_, rfl⟩, ⟨_, rfl⟩, ⟨_, rfl⟩⟩

/-- The machine right after reset meets the invariants. -/
theorem reset_pins_ok : PinsOk State.reset := by
  refine ⟨⟨fun _ => rfl, fun h => by cases h⟩, ?_, fun i h => by cases h⟩
  decide

/-- I2C_STOP at its fifth entry, with the clock high and data low: inside a command the pair (1, 0)
is allowed. -/
def stopping : State := during .i2cStop 4 (pinned true false .out true)

theorem stopping_pins_ok : PinsOk stopping := by
  refine ⟨⟨(fun h => by cases h), fun _ => ⟨.i2cStop, by decide, by decide⟩⟩, (fun h => by cases h), ?_⟩
  intro i _ hi
  obtain rfl : Instr.i2cStop = i := Option.some.inj (show some Instr.i2cStop = some i from hi)
  refine ⟨fun v h => ?_, fun v h => ?_, fun d h => ?_, fun h => by cases h⟩
  · exact Option.some.inj (show some true = some v from h)
  · exact Option.some.inj (show some false = some v from h)
  · cases (show (none : Option Dir) = some d from h)

/-- StepKeepsPinsFollowingTheProgram, StepKeepsSequencerSound, SoundSequencerNeverStops: an idle
machine and a busy one that meet the invariant, and their steps. -/
theorem witness_StepKeepsPinsFollowingTheProgram :
    (PinsOk State.reset ∧ SequencerOk State.reset ∧ ∃ t, step State.reset = .next t) ∧
    (PinsOk stopping ∧ SequencerOk stopping ∧ ∃ t, step stopping = .next t) :=
  ⟨⟨reset_pins_ok, reset_pins_ok.1, _, rfl⟩, ⟨stopping_pins_ok, stopping_pins_ok.1, _, rfl⟩⟩

/-- OpenDrainIsSetByStartAndClearedByReset: a step that keeps the mode and one that turns it on. -/
theorem witness_OpenDrainIsSetByStartAndClearedByReset :
    (∃ t, step stopping = .next t ∧ stopping.odEn = true) ∧
    (∃ t, step (during .i2cStart 0 State.reset) = .next t ∧
      (during .i2cStart 0 State.reset).odEn = false ∧ t.odEn = true) := ⟨⟨_, rfl, rfl⟩, ⟨_, rfl, rfl, rfl⟩⟩

/-- SHT_READ16 about to take its first sample. -/
def sampling : State := during .shtRead16 4 (pinned true true .inp false)

/-- ShtSamplesOnlyAReleasedLine: a state that meets the invariant, at a sample. -/
theorem witness_ShtSamplesOnlyAReleasedLine :
    PinsOk sampling ∧ sampling.busy = true ∧ currentInstr sampling = some .shtRead16 ∧
    (commandOf .shtRead16).program[sampling.upc.toNat]? = some .sampleAcc := by
  refine ⟨⟨⟨(fun h => by cases h), fun _ => ⟨.shtRead16, by decide, by decide⟩⟩, (fun h => by cases h), ?_⟩,
    rfl, by decide, by decide⟩
  intro i _ hi
  obtain rfl : Instr.shtRead16 = i := Option.some.inj (show some Instr.shtRead16 = some i from hi)
  refine ⟨fun v h => ?_, fun v h => ?_, fun d h => ?_, fun h => by cases h⟩
  · exact Option.some.inj (show some true = some v from h)
  · cases (show (none : Option Level) = some v from h)
  · exact Option.some.inj (show some Dir.inp = some d from h)

/-- StartShowsOneStartSignature, StopShowsOneStopSignature: a quiet bus at the boundary with the
clock high and at one with it low. -/
theorem witness_signatures :
    (sIdle.busy = false ∧ NoReset sIdle ∧ QuietBus sIdle ∧ IntendedUse .i2cStart sIdle ∧
      IntendedUse .i2cStop sIdle ∧ ¬(sIdle.sclLat = true ∧ sIdle.sdaLat = false)) ∧
    (sSta.busy = false ∧ NoReset sSta ∧ QuietBus sSta ∧ IntendedUse .i2cStart sSta ∧
      IntendedUse .i2cStop sSta ∧ ¬(sSta.sclLat = true ∧ sSta.sdaLat = false)) :=
  ⟨⟨rfl, sIdle_no_reset, ⟨rfl, (fun ps hp => by cases hp)⟩, rfl, rfl, by decide⟩,
    ⟨rfl, noReset_of_empty rfl, ⟨rfl, (fun ps hp => by cases hp)⟩, rfl, rfl, by decide⟩⟩

/-- ClockEdgesPerTransfer: entered with the clock high and with it low; its SHT_CMD clause has
ShtCmdRuns' witness. -/
theorem witness_ClockEdgesPerTransfer :
    (sIdle.busy = false ∧ NoReset sIdle ∧ sIdle.sclLat = true) ∧
    (sSta.busy = false ∧ NoReset sSta ∧ sSta.sclLat = false) :=
  ⟨⟨rfl, sIdle_no_reset, rfl⟩, ⟨rfl, noReset_of_empty rfl, rfl⟩⟩

/-- WriteShowsTheByteAtRisingEdges: S_STA with a slave that acknowledges (V-W1). -/
theorem witness_WriteShowsTheByteAtRisingEdges :
    sSta.busy = false ∧ NoReset sSta ∧ IntendedUse (.i2cWrite 0xA5) sSta ∧
    (∀ j, j < 8 → pullAt sSta.pSda (List.replicate 52 [.released] ++ [[.low]]) (6 * j + 2) = .released) := by
  refine ⟨rfl, noReset_of_empty rfl, ⟨rfl, rfl, rfl⟩, fun j hj => ?_⟩
  interval_cases j <;> rfl

/-- A slave that says nothing during a write and pulls data low all through the next command. -/
def echoOfZero : State :=
  { sSta with env := List.replicate 55 [.released] ++ List.replicate 58 [.low] }

/-- What an observer of a write from `s` finds on the data wire at its rising edges. -/
def seenInWrite (byte : Byte) (s : State) : List Wire :=
  match exec (.i2cWrite byte) s with
  | .next t =>
    match runSteps 55 t with
    | .next u => dataAtRises (wires s) (u.log.drop 1).reverse
    | _ => []
  | _ => []

/-- EchoGivesTheByteBack: the byte 0, seen low at its eight data edges and echoed. The premise speaks
of a whole write, so this one witness runs one. -/
theorem witness_EchoGivesTheByteBack :
    echoOfZero.busy = false ∧ NoReset echoOfZero ∧ IntendedUse (.i2cWrite 0) echoOfZero ∧
    (∀ j, j < 8 → pullAt echoOfZero.pSda echoOfZero.env (6 * j + 2) = .released) ∧
    (∀ j, j < 8 → (pullAt echoOfZero.pSda echoOfZero.env (55 + (6 * j + 5)) = .low ↔
      (seenInWrite 0 echoOfZero)[j]? = some (.level false))) := by
  refine ⟨rfl, noReset_of_empty rfl, ⟨rfl, rfl, rfl⟩, fun j hj => ?_, ?_⟩
  · interval_cases j <;> rfl
  · decide

/-- StuckLowLineIsSilent: data held low with no spin limit, released and pushed high. -/
theorem witness_StuckLowLineIsSilent :
    ({ sSta with pSda := .low }.busy = false ∧ NoReset { sSta with pSda := .low } ∧
      StuckLow { sSta with pSda := .low } ∧ ¬PushesHigh { sSta with pSda := .low } ∧
      sSta.spinLimit = .unlimited) ∧
    (NoReset { State.reset with pSda := .low } ∧ StuckLow { State.reset with pSda := .low }) :=
  ⟨⟨rfl, noReset_of_empty rfl, ⟨rfl, (fun ps hp => by cases hp)⟩, (fun h => by cases h.2), rfl⟩,
    noReset_of_empty rfl, rfl, (fun ps hp => by cases hp)⟩

/-- CompleteRunAnswersEveryWord: an illegal word, whose run is one step, and I2C_STOP, whose run is the
seven it needs. -/
theorem witness_CompleteRunAnswersEveryWord :
    (∃ t, CompleteRun [0x0302] 1 { sSta with host := [.issue 0x0302] } t) ∧
    (∃ t, CompleteRun [0x0400] 7 { sSta with host := [.issue 0x0400] } t) := by
  refine ⟨⟨_, rfl, fun m hm => ?_, rfl, rfl, rfl, rfl⟩, ⟨_, rfl, fun m hm => ?_, rfl, rfl, rfl, rfl⟩⟩
  all_goals
    obtain rfl := List.mem_singleton.mp hm
    decide

end Sys2Proof.Tests
end

section
/-! The values after reset (10_state.md R39). -/

namespace Sys2Proof.Machine

/-- R39's table, item by item. -/
theorem itemsAtReset_reset : ItemsAtReset State.reset := by
  unfold ItemsAtReset
  and_intros <;> rfl

/-- Settles O24: the items are R39's table; the clock wire shows its latch, and the data wire an
unpulled latch at 1. -/
theorem resetValues : Obligations.ResetValues :=
  ⟨itemsAtReset_reset, sclWire_eq State.reset, sdaWire_unpulled rfl rfl⟩

end Sys2Proof.Machine
end

section
/-! The engine's contribution to the wires and the pads (20_memory.md R51). -/

namespace Sys2Proof.Machine

/-- R51's rule for a driven line: a low latch pulls low in either mode, a high one is released or
driven high as the mode says. -/
theorem driveOf_eq (od : Bool) (v : Level) :
    driveOf od v = if od = true then (if v = false then .low else .released)
      else (if v = false then .low else .high) := by
  cases od <;> cases v <;> rfl

/-- Only an output drives the data line; what it drives is `driveOf`'s. -/
theorem driveSda_eq (s : State) :
    driveSda s = if s.sdaDir = .inp then .released else driveOf s.odEn s.sdaLat := by
  unfold driveSda
  cases s.sdaDir with
  | inp => rfl
  | out => rfl

/-- Settles O5: both lines by `driveOf`'s rule, the data line only as an output; the pads are the
two contributions' enables and levels by definition. -/
theorem driveFollowsPinState : Obligations.DriveFollowsPinState := by
  intro s
  refine ⟨driveOf_eq s.odEn s.sclLat, ?_, rfl⟩
  rw [driveSda_eq, driveOf_eq]

end Sys2Proof.Machine
end

section
/-! The decoder and R83's table (30_encoding.md R80 to R83). The development turns on one fact,
`decode_eq_ok_iff`: a word decodes to a command exactly when it is that command's encoding. The table,
the listed decode function and the number of legal words are then facts about encodings. -/

namespace Sys2Proof

/-! ## Words made of two parts -/

/-- A word is two given parts put together exactly when those are the parts it has. -/
theorem eq_append_iff {m n : ℕ} (w : BitVec (m + n)) (hi : BitVec m) (lo : BitVec n) :
    w = hi ++ lo ↔ w.extractLsb' n m = hi ∧ w.extractLsb' 0 n = lo := by
  constructor
  · rintro rfl
    exact ⟨BitVec.extractLsb'_append_eq_left, BitVec.extractLsb'_append_eq_right⟩
  · rintro ⟨rfl, rfl⟩
    exact BitVec.extractLsb'_append_extractLsb'.symm

/-- A mask of ones over zeros compares the upper part only. -/
theorem and_upperMask_eq_iff {m n : ℕ} (w : BitVec (m + n)) (hi : BitVec m) :
    w &&& (BitVec.allOnes m ++ 0#n) = hi ++ 0#n ↔ w.extractLsb' n m = hi := by
  conv_lhs => rw [← BitVec.extractLsb'_append_extractLsb' (x := w), BitVec.and_append]
  simp [BitVec.append_left_inj]

/-- The number of a word made of two parts. -/
theorem toNat_append_eq_add {m n : ℕ} (hi : BitVec m) (lo : BitVec n) :
    (hi ++ lo).toNat = hi.toNat * 2 ^ n + lo.toNat := by
  rw [BitVec.toNat_append, ← Nat.shiftLeft_add_eq_or_of_lt lo.isLt, Nat.shiftLeft_eq]

/-! ## Fields and words -/

theorem fieldsOf_toWord (f : Fields) : fieldsOf f.toWord = f := by
  obtain ⟨rsv, op, arg⟩ := f
  simp only [fieldsOf, Fields.toWord, Fields.mk.injEq]
  refine ⟨?_, ?_, BitVec.extractLsb'_append_eq_right⟩
  · rw [BitVec.extractLsb'_append_eq_of_le (by decide)]
    exact BitVec.extractLsb'_append_eq_left
  · rw [BitVec.extractLsb'_append_eq_of_le (by decide)]
    exact BitVec.extractLsb'_append_eq_right

theorem toWord_fieldsOf (w : Word) : (fieldsOf w).toWord = w := by
  have hupper : w.extractLsb' 11 5 ++ w.extractLsb' 8 3 = w.extractLsb' 8 8 :=
    BitVec.extractLsb'_append_extractLsb'_eq_extractLsb' rfl
  calc (fieldsOf w).toWord
      = (w.extractLsb' 11 5 ++ w.extractLsb' 8 3) ++ w.extractLsb' 0 8 := rfl
    _ = w.extractLsb' 8 8 ++ w.extractLsb' 0 8 := by rw [hupper]
    _ = w := BitVec.extractLsb'_append_extractLsb' (w := 8) (len := 8)

/-! ## Decoding is the inverse of encoding -/

theorem eq_instrFields {f : Fields} {i : Instr} (hrsv : f.rsv = 0) (hop : f.op = opOf i)
    (harg : f.arg = argOf i) : f = instrFields i := by
  obtain ⟨rsv, op, arg⟩ := f
  rw [instrFields, Fields.mk.injEq]
  exact ⟨hrsv, hop, harg⟩

/-- A command without an operand is answered only for `arg` 0. -/
theorem of_noOperand_eq_ok {f : Fields} {i j : Instr} (h : noOperand f i = .ok j) :
    f.arg = 0 ∧ i = j := by
  unfold noOperand at h
  split_ifs at h with harg
  exact ⟨harg, Except.ok.inj h⟩

/-- An operand byte with bits 7:1 clear is the one-bit operand `send_ack`. -/
theorem eq_argOf_i2cRead (b : Byte) (h : b.extractLsb' 1 7 = 0) :
    b = argOf (.i2cRead (b.getLsbD 0)) := by
  revert b
  decide +kernel

/-- Fields decoded as a command are the fields of that command. -/
theorem eq_instrFields_of_decodeFields {f : Fields} {i : Instr} (h : decodeFields f = .ok i) :
    f = instrFields i := by
  unfold decodeFields at h
  split_ifs at h with hrsv h1 h2 h3 hbits h4 h5 h6 h7
  all_goals replace hrsv := not_ne_iff.mp hrsv
  · obtain ⟨harg, rfl⟩ := of_noOperand_eq_ok h
    exact eq_instrFields hrsv h1 harg
  · obtain rfl := Except.ok.inj h
    exact eq_instrFields hrsv h2 rfl
  · obtain rfl := Except.ok.inj h
    exact eq_instrFields hrsv h3 (eq_argOf_i2cRead f.arg hbits)
  · obtain ⟨harg, rfl⟩ := of_noOperand_eq_ok h
    exact eq_instrFields hrsv h4 harg
  · obtain ⟨harg, rfl⟩ := of_noOperand_eq_ok h
    exact eq_instrFields hrsv h5 harg
  · obtain rfl := Except.ok.inj h
    exact eq_instrFields hrsv h6 rfl
  · obtain ⟨harg, rfl⟩ := of_noOperand_eq_ok h
    exact eq_instrFields hrsv h7 harg

/-- A word decodes to a command exactly when it is that command's encoding. -/
theorem decode_eq_ok_iff (w : Word) (i : Instr) : decode w = .ok i ↔ w = encode i := by
  constructor
  · intro h
    rw [encode, ← eq_instrFields_of_decodeFields h, toWord_fieldsOf]
  · rintro rfl
    rw [decode, encode, fieldsOf_toWord, decodeFields_instrFields]

/-- A word is legal exactly when some command is encoded so. -/
theorem isSome_decode?_iff (w : Word) : (decode? w).isSome ↔ ∃ i, w = encode i := by
  simp only [← decode_eq_ok_iff, decode?]
  cases decode w <;> simp

/-! ## The words of each command -/

/-- A command word is the op code, with bits 15:11 clear, over the operand (R80). -/
theorem encode_eq_append (i : Instr) : encode i = (opOf i).setWidth 8 ++ argOf i := by
  have hupper : ∀ op : BitVec 3, 0#5 ++ op = op.setWidth 8 := by decide
  rw [← hupper]
  rfl

theorem encode_i2cRead_eq_append (a : Bool) :
    encode (.i2cRead a) = 0x180#15 ++ BitVec.ofBool a := by
  cases a <;> rfl

theorem eq_encode_i2cWrite_iff (w : Word) (b : Byte) :
    w = encode (.i2cWrite b) ↔ w.extractLsb' 8 8 = 2 ∧ w.extractLsb' 0 8 = b := by
  rw [encode_eq_append]
  exact eq_append_iff (m := 8) (n := 8) w 2 b

theorem eq_encode_shtCmd_iff (w : Word) (b : Byte) :
    w = encode (.shtCmd b) ↔ w.extractLsb' 8 8 = 6 ∧ w.extractLsb' 0 8 = b := by
  rw [encode_eq_append]
  exact eq_append_iff (m := 8) (n := 8) w 6 b

theorem eq_encode_i2cRead_iff (w : Word) (a : Bool) :
    w = encode (.i2cRead a) ↔ w.extractLsb' 1 15 = 0x180 ∧ w.getLsbD 0 = a := by
  have hbit : w.extractLsb' 0 1 = BitVec.ofBool a ↔ w.getLsbD 0 = a := by
    cases a <;> simp [BitVec.eq_of_getLsbD_eq_iff]
  rw [encode_i2cRead_eq_append, ← hbit]
  exact eq_append_iff (m := 15) (n := 1) w 0x180 (BitVec.ofBool a)

/-! ## R83's table -/

/-- Every command's word is covered by the row with its mnemonic. -/
theorem exists_row_covers_encode (i : Instr) :
    ∃ r ∈ rows, r.mnemonic = mnemonicOf i ∧ r.covers (encode i) = true := by
  have h : Laws.EncodedFields.Statement i := by
    cases i with
    | i2cStart => exact Laws.EncodedFields.i2cStart
    | i2cWrite b => exact Laws.EncodedFields.i2cWrite b
    | i2cRead a => exact Laws.EncodedFields.i2cRead a
    | i2cStop => exact Laws.EncodedFields.i2cStop
    | shtStart => exact Laws.EncodedFields.shtStart
    | shtCmd b => exact Laws.EncodedFields.shtCmd b
    | shtRead16 => exact Laws.EncodedFields.shtRead16
  obtain ⟨-, -, hrow⟩ := h
  exact hrow

/-- The mnemonic names the row. -/
theorem row_eq_of_mnemonic_eq : ∀ r ∈ rows, ∀ r' ∈ rows, r.mnemonic = r'.mnemonic → r = r' := by
  decide

theorem covers_iff {r : Row} {w : Word} : r.covers w = true ↔ w &&& r.mask = r.pattern := beq_iff_eq

/-- A row without an operand field covers its pattern only. -/
theorem and_fullMask_eq_iff (w p : Word) : w &&& 0xFFFF = p ↔ w = p := by
  rw [show (0xFFFF : Word) = BitVec.allOnes 16 from rfl, BitVec.and_allOnes]

/-- A word a row covers is the encoding of a command with the row's mnemonic. -/
theorem exists_encode_of_covers {r : Row} {w : Word} (hr : r ∈ rows) (hc : r.covers w = true) :
    ∃ i, w = encode i ∧ mnemonicOf i = r.mnemonic := by
  rw [covers_iff] at hc
  simp only [rows, List.mem_cons, List.not_mem_nil, or_false] at hr
  rcases hr with rfl | rfl | rfl | rfl | rfl | rfl | rfl
  · exact ⟨.i2cStart, (and_fullMask_eq_iff w 0x0100).mp hc, rfl⟩
  · have hupper := (and_upperMask_eq_iff (m := 8) (n := 8) w 2).mp hc
    exact ⟨.i2cWrite _, (eq_encode_i2cWrite_iff w _).mpr ⟨hupper, rfl⟩, rfl⟩
  · have hupper := (and_upperMask_eq_iff (m := 15) (n := 1) w 0x180).mp hc
    exact ⟨.i2cRead _, (eq_encode_i2cRead_iff w _).mpr ⟨hupper, rfl⟩, rfl⟩
  · exact ⟨.i2cStop, (and_fullMask_eq_iff w 0x0400).mp hc, rfl⟩
  · exact ⟨.shtStart, (and_fullMask_eq_iff w 0x0500).mp hc, rfl⟩
  · have hupper := (and_upperMask_eq_iff (m := 8) (n := 8) w 6).mp hc
    exact ⟨.shtCmd _, (eq_encode_shtCmd_iff w _).mpr ⟨hupper, rfl⟩, rfl⟩
  · exact ⟨.shtRead16, (and_fullMask_eq_iff w 0x0700).mp hc, rfl⟩

/-- A row covers exactly the words of the commands with its mnemonic. -/
theorem covers_iff_decode {r : Row} (hr : r ∈ rows) (w : Word) :
    r.covers w = true ↔ ∃ i, decode w = .ok i ∧ mnemonicOf i = r.mnemonic := by
  simp only [decode_eq_ok_iff]
  constructor
  · exact exists_encode_of_covers hr
  · rintro ⟨i, rfl, hi⟩
    obtain ⟨r', hr', hm, hc⟩ := exists_row_covers_encode i
    rwa [row_eq_of_mnemonic_eq r hr r' hr' (hi.symm.trans hm.symm)]

/-- No word is covered by two rows: it would be two commands. -/
theorem rows_disjoint {w : Word} {r r' : Row} (hr : r ∈ rows) (hr' : r' ∈ rows)
    (hc : r.covers w = true) (hc' : r'.covers w = true) : r = r' := by
  obtain ⟨i, hi, hm⟩ := (covers_iff_decode hr w).mp hc
  obtain ⟨j, hj, hm'⟩ := (covers_iff_decode hr' w).mp hc'
  obtain rfl : i = j := Except.ok.inj (hi.symm.trans hj)
  exact row_eq_of_mnemonic_eq r hr r' hr' (hm.symm.trans hm')

/-- A word is illegal exactly when no row covers it. -/
theorem decode_error_iff_uncovered (w : Word) :
    (∃ e, decode w = .error e) ↔ ∀ r ∈ rows, r.covers w = false := by
  cases hd : decode w with
  | error e =>
    refine iff_of_true ⟨e, rfl⟩ fun r hr => Bool.eq_false_iff.mpr fun hc => ?_
    obtain ⟨i, hi, -⟩ := (covers_iff_decode hr w).mp hc
    cases hd.symm.trans hi
  | ok i =>
    refine iff_of_false (fun ⟨_, he⟩ => nomatch he) fun hn => ?_
    obtain ⟨r, hr, hm, hc⟩ := exists_row_covers_encode i
    rw [← (decode_eq_ok_iff w i).mp hd, hn r hr] at hc
    cases hc

/-- R83's decode function, command by command with its operand field. -/
theorem decode_eq_ok_by_command (w : Word) :
    (decode w = .ok .i2cStart ↔ w = 0x0100) ∧
    (∀ b, decode w = .ok (.i2cWrite b) ↔ w.extractLsb' 8 8 = 2 ∧ w.extractLsb' 0 8 = b) ∧
    (∀ a, decode w = .ok (.i2cRead a) ↔ w.extractLsb' 1 15 = 0x180 ∧ w.getLsbD 0 = a) ∧
    (decode w = .ok .i2cStop ↔ w = 0x0400) ∧
    (decode w = .ok .shtStart ↔ w = 0x0500) ∧
    (∀ b, decode w = .ok (.shtCmd b) ↔ w.extractLsb' 8 8 = 6 ∧ w.extractLsb' 0 8 = b) ∧
    (decode w = .ok .shtRead16 ↔ w = 0x0700) := by
  simp only [decode_eq_ok_iff]
  exact ⟨Iff.rfl, eq_encode_i2cWrite_iff w, eq_encode_i2cRead_iff w, Iff.rfl, Iff.rfl,
    eq_encode_shtCmd_iff w, Iff.rfl⟩

/-! ## The number of legal words -/

/-- A legal word as a number: the op code times 256 and the operand. -/
theorem toNat_encode (i : Instr) : (encode i).toNat = (opOf i).toNat * 2 ^ 8 + (argOf i).toNat := by
  rw [encode_eq_append, toNat_append_eq_add (m := 8), BitVec.toNat_setWidth_of_le (by decide)]

theorem toNat_encode_i2cWrite (b : Byte) : (encode (.i2cWrite b)).toNat = 0x0200 + b.toNat := by
  simp [toNat_encode, opOf, argOf]

theorem toNat_encode_shtCmd (b : Byte) : (encode (.shtCmd b)).toNat = 0x0600 + b.toNat := by
  simp [toNat_encode, opOf, argOf]

theorem ofNat_eq_encode {n : ℕ} {i : Instr} (h : (encode i).toNat = n) :
    BitVec.ofNat 16 n = encode i := by
  rw [← h, BitVec.ofNat_toNat, BitVec.setWidth_eq]

/-- The words of I2C_START, I2C_STOP and SHT_START as numbers. -/
def singleNumbers : Finset ℕ := {0x0100, 0x0400, 0x0500}

/-- The words of I2C_WRITE as numbers and, right after them, the two of I2C_READ. -/
def writeReadNumbers : Finset ℕ := Finset.Ico 0x0200 0x0302

/-- The words of SHT_CMD as numbers and, right after them, the one of SHT_READ16. -/
def cmdRead16Numbers : Finset ℕ := Finset.Ico 0x0600 0x0701

/-- The legal words as numbers. -/
def legalNumbers : Finset ℕ := singleNumbers ∪ writeReadNumbers ∪ cmdRead16Numbers

theorem mem_legalNumbers_iff (n : ℕ) :
    n ∈ legalNumbers ↔ (n = 0x0100 ∨ n = 0x0400 ∨ n = 0x0500) ∨
      (0x0200 ≤ n ∧ n < 0x0302) ∨ (0x0600 ≤ n ∧ n < 0x0701) := by
  simp [legalNumbers, singleNumbers, writeReadNumbers, cmdRead16Numbers, or_assoc]

theorem card_legalNumbers : legalNumbers.card = 518 := by
  have hsingle : Disjoint singleNumbers writeReadNumbers := by decide
  have hcmd : Disjoint (singleNumbers ∪ writeReadNumbers) cmdRead16Numbers := by
    simp only [Finset.disjoint_left, Finset.mem_union, singleNumbers, writeReadNumbers,
      cmdRead16Numbers, Finset.mem_insert, Finset.mem_singleton, Finset.mem_Ico]
    omega
  calc legalNumbers.card
      = singleNumbers.card + writeReadNumbers.card + cmdRead16Numbers.card := by
        rw [legalNumbers, Finset.card_union_of_disjoint hcmd, Finset.card_union_of_disjoint hsingle]
    _ = 3 + (0x0302 - 0x0200) + (0x0701 - 0x0600) := by
        rw [writeReadNumbers, cmdRead16Numbers, Nat.card_Ico, Nat.card_Ico]
        rfl
    _ = 518 := rfl

theorem toNat_encode_mem_legalNumbers (i : Instr) : (encode i).toNat ∈ legalNumbers := by
  rw [mem_legalNumbers_iff]
  cases i with
  | i2cWrite b =>
    rw [toNat_encode_i2cWrite]
    omega
  | i2cRead a => cases a <;> decide
  | shtCmd b =>
    rw [toNat_encode_shtCmd]
    omega
  | _ => decide

theorem exists_encode_of_mem_legalNumbers {n : ℕ} (h : n ∈ legalNumbers) :
    ∃ i, BitVec.ofNat 16 n = encode i := by
  rw [mem_legalNumbers_iff] at h
  rcases h with (rfl | rfl | rfl) | ⟨hlo, hhi⟩ | ⟨hlo, hhi⟩
  · exact ⟨.i2cStart, rfl⟩
  · exact ⟨.i2cStop, rfl⟩
  · exact ⟨.shtStart, rfl⟩
  · obtain hw | rfl | rfl : n < 0x0300 ∨ n = 0x0300 ∨ n = 0x0301 := by omega
    · refine ⟨.i2cWrite (BitVec.ofNat 8 (n - 0x0200)), ofNat_eq_encode ?_⟩
      rw [toNat_encode_i2cWrite, BitVec.toNat_ofNat]
      omega
    · exact ⟨.i2cRead false, rfl⟩
    · exact ⟨.i2cRead true, rfl⟩
  · obtain hw | rfl : n < 0x0700 ∨ n = 0x0700 := by omega
    · refine ⟨.shtCmd (BitVec.ofNat 8 (n - 0x0600)), ofNat_eq_encode ?_⟩
      rw [toNat_encode_shtCmd, BitVec.toNat_ofNat]
      omega
    · exact ⟨.shtRead16, rfl⟩

/-- The number of a word is a legal one exactly when the word decodes. -/
theorem isSome_decode?_ofNat_iff {n : ℕ} (hn : n < 65536) :
    (decode? (BitVec.ofNat 16 n)).isSome ↔ n ∈ legalNumbers := by
  rw [isSome_decode?_iff]
  refine ⟨fun ⟨i, hi⟩ => ?_, exists_encode_of_mem_legalNumbers⟩
  have hmem := toNat_encode_mem_legalNumbers i
  rwa [← hi, BitVec.toNat_ofNat, Nat.mod_eq_of_lt hn] at hmem

theorem lt_of_mem_legalNumbers {n : ℕ} (h : n ∈ legalNumbers) : n < 65536 := by
  rw [mem_legalNumbers_iff] at h
  omega

/-- 518 of the 65536 words are legal (R83). -/
theorem countP_isSome_decode? :
    (List.range 65536).countP (fun n => (decode? (BitVec.ofNat 16 n)).isSome) = 518 := by
  have hfilter : (Finset.range 65536).filter
      (fun n => (decode? (BitVec.ofNat 16 n)).isSome = true) = legalNumbers := by
    ext n
    rw [Finset.mem_filter, Finset.mem_range]
    exact ⟨fun ⟨hn, hsome⟩ => (isSome_decode?_ofNat_iff hn).mp hsome, fun hmem =>
      have hn := lt_of_mem_legalNumbers hmem
      ⟨hn, (isSome_decode?_ofNat_iff hn).mpr hmem⟩⟩
  have hcount := Nat.count_eq_card_filter_range
    (fun n => (decode? (BitVec.ofNat 16 n)).isSome = true) 65536
  rw [hfilter, card_legalNumbers, Nat.count] at hcount
  simpa using hcount

/-- Settles O2: a word decodes to a command exactly when it is that command's encoding, and the rows,
the listed decode function and the count are read off the encodings. -/
theorem opcodeTableDecodes : Obligations.OpcodeTableDecodes :=
  ⟨fun w _ hr => covers_iff_decode hr w, decode_error_iff_uncovered,
    fun _ _ hr _ hr' => rows_disjoint hr hr', decode_eq_ok_by_command, countP_isSome_decode?,
    fun i => (decode_eq_ok_iff _ i).mpr rfl, fun w i h => ((decode_eq_ok_iff w i).mp h).symm⟩

end Sys2Proof
end

section
/-! What the micro-programs are made of, for the rules that say which commands perform a
micro-operation (40_line_and_delay_primitives.md R102, R103, R108, R109, R114). -/

namespace Sys2Proof.Machine

/-- The entries that occur in a command's micro-program, those of a repeated slot once. -/
def entriesOf (i : Instr) : List MicroOp :=
  match i with
  | .i2cStart =>
    [.setOd, .setSda (.const true), .setSda (.const false), .setScl true, .setScl false, .wait .us10]
  | .i2cWrite _ =>
    [.setSda .txMsb, .setSda (.const true), .setScl true, .setScl false, .sampleAck,
      .wait .us2, .wait .us5, .wait .us10, .waitShift .us2]
  | .i2cRead sendAck =>
    [.setSda (.const true), .setSda (.const (sendAckLevel sendAck)), .setScl true, .setScl false,
      .sampleAcc, .wait .us2, .wait .us5, .wait .us10]
  | .i2cStop => [.setSda (.const true), .setSda (.const false), .setScl true, .wait .us10]
  | .shtStart =>
    [.setDir .out, .setSda (.const true), .setSda (.const false), .setScl true, .setScl false]
  | .shtCmd _ =>
    [.setDir .inp, .setSda .txMsb, .setScl true, .setScl false, .wait .us2, .waitShift .us5,
      .spinWhile true, .spinWhile false]
  | .shtRead16 =>
    [.setDir .inp, .setDir .out, .setSda (.const false), .setScl true, .setScl false, .sampleAcc,
      .wait .us2, .wait .us5]

theorem mem_entriesOf {i : Instr} {m : MicroOp} (h : m ∈ (commandOf i).program) :
    m ∈ entriesOf i := by
  cases i with
  | i2cStart => exact (by decide : ∀ m ∈ i2cStartProgram, m ∈ entriesOf .i2cStart) m h
  | i2cWrite b => exact (by decide : ∀ m ∈ i2cWriteProgram, m ∈ entriesOf (.i2cWrite 0)) m h
  | i2cRead a => exact (by decide : ∀ a, ∀ m ∈ i2cReadProgram a, m ∈ entriesOf (.i2cRead a)) a m h
  | i2cStop => exact (by decide : ∀ m ∈ i2cStopProgram, m ∈ entriesOf .i2cStop) m h
  | shtStart => exact (by decide : ∀ m ∈ shtStartProgram, m ∈ entriesOf .shtStart) m h
  | shtCmd b => exact (by decide : ∀ m ∈ shtCmdProgram, m ∈ entriesOf (.shtCmd 0)) m h
  | shtRead16 => exact (by decide : ∀ m ∈ shtRead16Program, m ∈ entriesOf .shtRead16) m h

/-- Only SHT15 commands turn the data line round (R102). -/
theorem sht_of_setDir_mem {i : Instr} {d : Dir} (h : .setDir d ∈ (commandOf i).program) :
    i = .shtStart ∨ (∃ b, i = .shtCmd b) ∨ i = .shtRead16 := by
  have hm := mem_entriesOf h
  cases i <;> simp [entriesOf] at hm ⊢

/-- Only I2C_START turns open-drain on (R103). -/
theorem i2cStart_of_setOd_mem {i : Instr} (h : .setOd ∈ (commandOf i).program) : i = .i2cStart := by
  have hm := mem_entriesOf h
  cases i <;> simp [entriesOf] at hm ⊢

/-- Only I2C_WRITE takes an acknowledge (R109). -/
theorem i2cWrite_of_sampleAck_mem {i : Instr} (h : .sampleAck ∈ (commandOf i).program) :
    ∃ b, i = .i2cWrite b := by
  have hm := mem_entriesOf h
  cases i <;> simp [entriesOf] at hm ⊢

/-- Only the two reads accumulate samples (R108). -/
theorem read_of_sampleAcc_mem {i : Instr} (h : .sampleAcc ∈ (commandOf i).program) :
    (∃ a, i = .i2cRead a) ∨ i = .shtRead16 := by
  have hm := mem_entriesOf h
  cases i <;> simp [entriesOf] at hm ⊢

/-- Only the two byte commands send TXSR's top bit or shift TXSR (R107). -/
theorem byteCommand_of_txsr_mem {i : Instr}
    (h : .setSda .txMsb ∈ (commandOf i).program ∨ ∃ d, .waitShift d ∈ (commandOf i).program) :
    (∃ b, i = .i2cWrite b) ∨ ∃ b, i = .shtCmd b := by
  have hm : .setSda .txMsb ∈ entriesOf i ∨ ∃ d, .waitShift d ∈ entriesOf i :=
    h.imp mem_entriesOf (Exists.imp fun _ => mem_entriesOf)
  cases i <;> simp [entriesOf] at hm ⊢

/-- Only the two reads answer with ACC (30_encoding.md R89). -/
theorem read_of_reply_acc {i : Instr}
    (h : (commandOf i).reply = .accLow ∨ (commandOf i).reply = .accFull) :
    (∃ a, i = .i2cRead a) ∨ i = .shtRead16 := by
  cases i <;>
    simp [commandOf, i2cStartCommand, i2cWriteCommand, i2cStopCommand, shtStartCommand,
      shtCmdCommand] at h ⊢

end Sys2Proof.Machine
end

section
/-! The receive accumulate (40_line_and_delay_primitives.md R108). -/

namespace Sys2Proof.Machine

/-- Appending one binary digit at the low end of a number. -/
def appendBit (n : ℕ) (v : Level) : ℕ := 2 * n + if v then 1 else 0

theorem appendBit_lt {n k : ℕ} (h : n < 2 ^ k) (v : Level) : appendBit n v < 2 ^ (k + 1) := by
  unfold appendBit
  rw [Nat.pow_succ]
  cases v <;> simp <;> omega

/-- Bit 0 is 0 after the shift, so the OR meets no set bit. -/
theorem shiftLeft_and_levelWord (a : Word) (v : Level) : a <<< 1 &&& levelWord v = 0 := by
  cases v with
  | false => simp [levelWord]
  | true =>
    ext k
    cases k <;> simp [levelWord]

theorem accumulate_eq_add (a : Word) (v : Level) : accumulate a v = a <<< 1 + levelWord v :=
  (BitVec.add_eq_or_of_and_eq_zero _ _ (shiftLeft_and_levelWord a v)).symm

/-- An accumulate appends its sample, unless the shift loses a bit. -/
theorem toNat_accumulate {a : Word} (v : Level) (h : a.toNat < 2 ^ 15) :
    (accumulate a v).toNat = appendBit a.toNat v := by
  rw [accumulate_eq_add]
  cases v <;> simp [levelWord, appendBit, Nat.shiftLeft_eq] <;> omega

/-- As long as the samples fit in sixteen bits, accumulating them appends their binary digits. -/
theorem toNat_foldl_accumulate (vs : List Level) {a : Word} {k : ℕ} (ha : a.toNat < 2 ^ k)
    (hk : k + vs.length ≤ 16) :
    (vs.foldl accumulate a).toNat = vs.foldl appendBit a.toNat := by
  induction vs generalizing a k with
  | nil => rfl
  | cons v vs ih =>
    rw [List.length_cons] at hk
    have h15 : a.toNat < 2 ^ 15 := ha.trans_le (Nat.pow_le_pow_right (by decide) (by omega))
    have hv := toNat_accumulate v h15
    rw [List.foldl_cons, List.foldl_cons, ← hv]
    exact ih (hv ▸ appendBit_lt ha v) (by omega)

theorem foldl_appendBit_lt (vs : List Level) {n k : ℕ} (h : n < 2 ^ k) :
    vs.foldl appendBit n < 2 ^ (k + vs.length) := by
  induction vs generalizing n k with
  | nil => exact h
  | cons v vs ih =>
    rw [List.length_cons, Nat.add_comm vs.length, ← Nat.add_assoc]
    exact ih (appendBit_lt h v)

/-- From 0, up to sixteen samples give their binary number. -/
theorem toNat_foldl_accumulate_zero {vs : List Level} (h : vs.length ≤ 16) :
    (vs.foldl accumulate 0).toNat = vs.foldl appendBit 0 :=
  toNat_foldl_accumulate vs (k := 0) (by decide) (by omega)

/-- I2C_READ takes eight samples into ACC, SHT_READ16 sixteen, no other command any. -/
theorem count_sampleAcc (i : Instr) :
    (commandOf i).program.count .sampleAcc =
      match i with
      | .i2cRead _ => 8
      | .shtRead16 => 16
      | _ => 0 := by
  cases i with
  | i2cRead a => exact (by decide : ∀ a, (i2cReadProgram a).count .sampleAcc = 8) a
  | shtRead16 => exact (by decide : shtRead16Program.count .sampleAcc = 16)
  | _ => exact List.count_eq_zero.mpr fun h => by simpa using read_of_sampleAcc_mem h

/-- Settles O17: the samples are appended as binary digits, so `n` of them stay below `2 ^ n`. -/
theorem receiveAccumulateIsBinary : Obligations.ReceiveAccumulateIsBinary := by
  refine ⟨fun a v => ⟨rfl, accumulate_eq_add a v⟩, fun vs => toNat_foldl_accumulate_zero, ?_,
    count_sampleAcc⟩
  intro vs h
  rw [toNat_foldl_accumulate_zero (by omega)]
  simpa [h] using foldl_appendBit_lt vs (n := 0) (k := 0) (by decide)

end Sys2Proof.Machine
end

section
/-! Acceptance (10_state.md R41, 40_line_and_delay_primitives.md R114). -/

namespace Sys2Proof.Machine

theorem accept_samePins (c : Command) (s : State) : SamePins s (accept c s) := by
  simp [SamePins]

theorem accept_sameResponse (c : Command) (s : State) : SameResponse s (accept c s) := by
  simp [SameResponse]

theorem accept_sameOutside (c : Command) (s : State) : SameOutside s (accept c s) := by
  simp [SameOutside]

/-- The byte commands load TXSR with their byte (R114). -/
theorem accept_txsr (i : Instr) (s : State) :
    (accept (commandOf i) s).txsr =
      match i with
      | .i2cWrite b => b
      | .shtCmd b => b
      | _ => s.txsr := by
  cases i <;> rfl

/-- The two reads clear ACC (R114). -/
theorem accept_acc (i : Instr) (s : State) :
    (accept (commandOf i) s).acc =
      match i with
      | .i2cRead _ => 0
      | .shtRead16 => 0
      | _ => s.acc := by
  cases i <;> rfl

/-- Settles O20: the next state is `accept`'s; the micro-programs and replies that use TXSR or ACC
are those of the commands that initialise it. -/
theorem acceptanceLatchesTheCommand : Obligations.AcceptanceLatchesTheCommand := by
  refine ⟨fun i => ⟨byteCommand_of_txsr_mem, ?_⟩, fun i s hb => ?_⟩
  · rintro (h | h)
    · exact read_of_sampleAcc_mem h
    · exact read_of_reply_acc h
  · refine ⟨accept (commandOf i) s, by rw [exec_eq, runCommand_idle hb], ?_⟩
    have hop : (accept (commandOf i) s).curOp = opOf i := by rw [accept_curOp, commandOf_op]
    have harg : (accept (commandOf i) s).curArg = argOf i := by rw [accept_curArg, commandOf_arg]
    exact ⟨accept_busy _ s, hop, harg, accept_upc _ s, accept_txsr i s, accept_acc i s,
      accept_samePins _ s, accept_sameResponse _ s, accept_sameOutside _ s, accept_ack _ s,
      accept_log _ s, accept_rspValid _ s, accept_draws _ s, accept_dlyCnt _ s⟩

end Sys2Proof.Machine
end

section
/-! The micro-operations that write a pin latch (40_line_and_delay_primitives.md R100 to R103). -/

namespace Sys2Proof.Machine

/-- R51's rule for a driven line, by the latch first. -/
theorem driveOf_eq_by_latch (od : Bool) (v : Level) :
    driveOf od v = if v then (if od then .released else .high) else .low := by
  cases od <;> cases v <;> rfl

/-- A micro-operation's event has the clock wire at the clock latch (20_memory.md R57). -/
theorem record_eq (op : TraceOp) (s : State) :
    record op s = { s with log := .micro op (.level s.sclLat) (sdaWire s) :: s.log } := by
  rw [record, sclWire_eq]

/-- Settles O10: the recorded clock level is the latch's, and the wire is driven by `driveOf`'s rule. -/
theorem setSclWritesTheClockLatch : Obligations.SetSclWritesTheClockLatch := by
  intro v s
  have hdrive : driveScl (perform (.setScl v) s) = driveOf s.odEn v := rfl
  rw [hdrive, driveOf_eq_by_latch]
  exact ⟨record_eq _ _, rfl, fun ho => by simp [ho], fun ho => by simp [ho]⟩

theorem driveSda_of_out {s : State} (h : s.sdaDir = .out) : driveSda s = driveOf s.odEn s.sdaLat := by
  rw [driveSda_eq, h]
  rfl

/-- Settles O11: an input's wire is the peripherals' alone; an output is driven by the new latch. -/
theorem setSdaWritesTheDataLatch : Obligations.SetSdaWritesTheDataLatch := by
  intro v s
  refine ⟨rfl, rfl, fun hin => ?_, fun hout => ?_⟩
  · exact (sdaWire_inp (s := setSda v s) hin).trans (sdaWire_inp hin).symm
  · exact (driveSda_of_out (s := setSda v s) hout).trans (driveOf_eq_by_latch s.odEn v)

/-- Settles O12: the latch stays, so an output shows it by `driveOf`'s rule. -/
theorem setDirWritesTheDirection : Obligations.SetDirWritesTheDirection :=
  ⟨fun _ _ => ⟨rfl, rfl⟩, fun s => ⟨rfl, driveOf_eq_by_latch s.odEn s.sdaLat⟩,
    fun _ _ => sht_of_setDir_mem⟩

/-- A line is driven high only in push-pull mode, by a latch of 1 (R51). -/
theorem driveOf_eq_high_iff (od : Bool) (v : Level) : driveOf od v = .high ↔ od = false ∧ v = true := by
  rw [driveOf_eq_by_latch]
  cases od <;> cases v <;> simp

theorem driveSda_eq_high_iff (s : State) :
    driveSda s = .high ↔ s.sdaDir = .out ∧ s.odEn = false ∧ s.sdaLat = true := by
  rw [driveSda_eq]
  cases s.sdaDir with
  | inp => simp
  | out => simp [driveOf_eq_high_iff]

/-- Contention is a driven high against a peripheral's low (20_memory.md R52). -/
theorem sdaWire_eq_contention_iff (s : State) :
    sdaWire s = .contention ↔ driveSda s = .high ∧ s.pSda = .low := by
  unfold sdaWire
  cases driveSda s <;> cases s.pSda <;> simp [resolve]

theorem setOd_releases_sda {s : State} (h : driveSda s = .high) :
    driveSda (setOd s) = .released ∧ sdaWire (setOd s) = .level (pullLevel s.pSda) := by
  obtain ⟨hout, -, hlat⟩ := (driveSda_eq_high_iff s).mp h
  constructor
  · rw [driveSda_of_out (s := setOd s) hout, setOd_sdaLat, hlat]
    rfl
  · exact sdaWire_openDrain rfl hlat

theorem setOd_releases_scl {s : State} (h : driveScl s = .high) :
    driveScl (setOd s) = .released ∧ sclWire (setOd s) = .level true := by
  obtain ⟨-, hlat⟩ := (driveOf_eq_high_iff s.odEn s.sclLat).mp h
  constructor
  · rw [driveScl, setOd_sclLat, hlat]
    rfl
  · rw [sclWire_eq, setOd_sclLat, hlat]

theorem setOd_ends_contention {s : State} (h : sdaWire s = .contention) :
    sdaWire (setOd s) = .level false := by
  obtain ⟨hhigh, hlow⟩ := (sdaWire_eq_contention_iff s).mp h
  rw [(setOd_releases_sda hhigh).2, hlow]
  rfl

/-- No micro-operation clears OD_EN (R103). -/
theorem perform_keeps_odEn (m : MicroOp) {s : State} (h : s.odEn = true) :
    (perform m s).odEn = true := by
  cases m <;> simp [perform, h]

/-- `SetOD` is the first entry of I2C_START's micro-program and no entry of any other (R103). -/
theorem program_setOd_iff (i : Instr) (k : ℕ) :
    (commandOf i).program[k]? = some .setOd ↔ i = .i2cStart ∧ k = 0 := by
  constructor
  · intro h
    obtain rfl := i2cStart_of_setOd_mem (List.mem_of_getElem? h)
    refine ⟨rfl, ?_⟩
    cases k with
    | zero => rfl
    | succ k =>
      have hmem : .setOd ∈ i2cStartProgram.tail :=
        List.mem_of_getElem? ((List.getElem?_tail ..).trans h)
      exact absurd hmem (by decide)
  · rintro ⟨rfl, rfl⟩
    rfl

/-- Settles O13: a driven high, contended or not, is a latch of 1 in push-pull mode, which open-drain
mode releases. -/
theorem setOdReleasesDrivenHighs : Obligations.SetOdReleasesDrivenHighs :=
  ⟨fun _ => ⟨record_eq _ _, rfl, setOd_releases_sda, setOd_releases_scl,
    setOd_ends_contention⟩, fun m _ => perform_keeps_odEn m, program_setOd_iff⟩

end Sys2Proof.Machine
end

section
/-! The acknowledge (40_line_and_delay_primitives.md R109). -/

namespace Sys2Proof.Machine

/-- A spin is over exactly at a sample that differs from its level. -/
theorem flowOf_spinWhile_eq_advance_iff (v : Level) (s : State) :
    flowOf (.spinWhile v) s = .advance ↔ sampledLevel s ≠ v := by
  unfold flowOf
  by_cases hv : sampledLevel s = v
  · cases hl : spinLimitReached s.spinLimit (s.spinCnt + 1) <;> simp [hv]
  · simp [hv]

/-- Settles O18: `ackOf` inverts; a spin and an accumulate have the sampled level itself. -/
theorem acknowledgeInvertsTheSample : Obligations.AcknowledgeInvertsTheSample :=
  ⟨rfl, rfl, sampleAck_ack, fun _ => i2cWrite_of_sampleAck_mem, flowOf_spinWhile_eq_advance_iff,
    sampleAcc_acc⟩

end Sys2Proof.Machine
end

section
/-! The four I2C commands always complete (41_i2c_byte_engine.md R125). Only SHT_CMD spins, so the
other commands run straight through their micro-programs, and no step of such a run looks at the
response latches. -/

namespace Sys2Proof.Machine

/-! ## Commands without a spin -/

/-- Only SHT_CMD waits for a level (R106). -/
theorem shtCmd_of_spinWhile_mem {i : Instr} {v : Level} (h : .spinWhile v ∈ (commandOf i).program) :
    ∃ b, i = .shtCmd b := by
  have hm := mem_entriesOf h
  cases i <;> simp [entriesOf] at hm ⊢

theorem not_isSpin_of_mem {i : Instr} {m : MicroOp} (hi : ∀ b, i ≠ .shtCmd b)
    (hm : m ∈ (commandOf i).program) : isSpin (some m) = false := by
  cases m with
  | spinWhile v =>
    obtain ⟨b, hb⟩ := shtCmd_of_spinWhile_mem hm
    exact absurd hb (hi b)
  | _ => rfl

/-- A command that ran to its end answers OK (30_encoding.md R89). -/
@[simp] theorem replyOf_err (k : ReplyKind) (s : State) : (replyOf k s).err = .ok := by
  cases k <;> rfl

/-- Before its last micro-operation a command without a spin is still in progress. -/
theorem run_spinless_busy (i : Instr) {s : State} {k : ℕ} (hn : NoReset s)
    (hs : ∀ m ∈ (commandOf i).program, isSpin (some m) = false)
    (hk : k < (commandOf i).program.length) :
    ∃ v, runSteps k (accept (commandOf i) s) = .next v ∧ v.busy = true := by
  cases k with
  | zero => exact ⟨_, runSteps_zero _, accept_busy _ s⟩
  | succ k =>
    have htake : ((commandOf i).program.take (k + 1)).length = k + 1 :=
      List.length_take_of_le hk.le
    have hrun := run_stretch i [] ((commandOf i).program.take (k + 1))
      ((commandOf i).program.drop (k + 1)) (accept (commandOf i) s) (hn.of_host (accept_host _ s))
      (accept_busy _ s) (currentInstr_accept i s) (List.take_append_drop _ _).symm
      (by rw [accept_upc]; rfl) (List.ne_nil_of_length_pos (by omega))
      (List.ne_nil_of_length_pos (by rw [List.length_drop]; omega))
      (fun m hm => hs m (List.mem_of_mem_take hm))
    rw [htake] at hrun
    exact ⟨_, hrun, (plainRun_busy _ _).trans (accept_busy _ s)⟩

/-! ## The earlier response -/

/-- The machine with another earlier response in its latches. -/
def withResponse (r : Response) (s : State) : State :=
  { s with result := r.data, ackf := r.ack, err := r.err }

theorem accept_withResponse (c : Command) (r : Response) (s : State) :
    accept c (withResponse r s) = withResponse r (accept c s) := by
  unfold accept
  cases c.init <;> rfl

theorem tick_withResponse (r : Response) (s : State) :
    tick (withResponse r s) = withResponse r (tick s) := by
  unfold tick envMove
  rw [show (withResponse r s).env = s.env from rfl]
  split <;> rfl

theorem hostWait_withResponse (r : Response) (s : State) :
    hostWait (withResponse r s) = withResponse r (hostWait s) := by
  unfold hostWait
  rw [show (withResponse r s).host = s.host from rfl]
  split <;> rfl

theorem countDraw_withResponse (r : Response) (s : State) :
    countDraw (withResponse r s) = withResponse r (countDraw s) := by
  unfold countDraw
  rw [show sdaWire (withResponse r s) = sdaWire s from rfl]
  split <;> rfl

/-- No micro-operation looks at the response latches. -/
theorem perform_withResponse (m : MicroOp) (r : Response) (s : State) :
    perform m (withResponse r s) = withResponse r (perform m s) := by
  cases m with
  | sampleAcc =>
    exact congrArg (record (.sample (sampledLevel s)))
      (countDraw_withResponse r { s with acc := accumulate s.acc (sampledLevel s) })
  | sampleAck =>
    exact congrArg (record (.sample (sampledLevel s)))
      (countDraw_withResponse r { s with ack := ackOf (sampledLevel s) })
  | spinWhile v =>
    exact congrArg (record (.sample (sampledLevel s)))
      (countDraw_withResponse r { s with spinCnt := s.spinCnt + 1 })
  | _ => rfl

theorem plainRun_withResponse (r : Response) (s : State) (ms : List MicroOp) :
    plainRun (withResponse r s) ms = withResponse r (plainRun s ms) := by
  induction ms generalizing s with
  | nil => rfl
  | cons m ms ih =>
    have hplain : plain (withResponse r s) m = withResponse r (plain s m) := by
      unfold plain beforeMicro
      rw [tick_withResponse, hostWait_withResponse, perform_withResponse]
    rw [plainRun_cons, hplain, ih, plainRun_cons]

/-- A completion overwrites the earlier response and does not read it. -/
theorem respond_replyOf_withResponse (k : ReplyKind) (r : Response) (s : State) :
    respond (replyOf k (withResponse r s)) (withResponse r s) = respond (replyOf k s) s := by
  cases k <;> rfl

/-! ## The I2C commands -/

/-- The four I2C commands and the number of micro-operations each performs (R120 to R123). -/
theorem i2c_program_length {i : Instr} {n : ℕ}
    (h : (i = .i2cStart ∧ n = 8) ∨ (∃ b, i = .i2cWrite b ∧ n = 55) ∨
      (∃ a, i = .i2cRead a ∧ n = 58) ∨ (i = .i2cStop ∧ n = 6)) :
    (∀ b, i ≠ .shtCmd b) ∧ (commandOf i).program.length = n ∧ 0 < n := by
  obtain ⟨rfl, rfl⟩ | ⟨b, rfl, rfl⟩ | ⟨a, rfl, rfl⟩ | ⟨rfl, rfl⟩ := h <;>
    exact ⟨nofun, rfl, by decide⟩

/-- Settles O38: none of the four spins, so the run is a stretch of its whole micro-program, whose
completion overwrites the one thing an earlier response changes. -/
theorem i2cCommandsAlwaysComplete : Obligations.I2cCommandsAlwaysComplete := by
  intro i n hi s data ack err hb hn
  obtain ⟨hsht, rfl, hpos⟩ := i2c_program_length hi
  have hs : ∀ m ∈ (commandOf i).program, isSpin (some m) = false :=
    fun m hm => not_isSpin_of_mem hsht hm
  have hne := List.ne_nil_of_length_pos hpos
  obtain ⟨hexec, hrun⟩ := run_spinless i s hb hn hs hne
  obtain ⟨hexec', hrun'⟩ :=
    run_spinless i (withResponse ⟨data, ack, err⟩ s) hb (hn.of_host rfl) hs hne
  rw [accept_withResponse, plainRun_withResponse, respond_replyOf_withResponse] at hrun'
  rw [accept_withResponse] at hexec'
  exact ⟨_, _, hexec, hrun, respond_busy _ _, respond_rspValid _ _, replyOf_err _ _,
    fun k hk => run_spinless_busy i hn hs hk, _, hexec', hrun'⟩

end Sys2Proof.Machine
end

section
/-! Which words are commands (30_encoding.md R80 to R84): `decode_eq_ok_iff` once more, and the causes
that make a word illegal, read off the checks of `decodeFields`. -/

namespace Sys2Proof

/-- Settles O1: both directions of `decode_eq_ok_iff`. -/
theorem decodeEncodeRoundTrip : Obligations.DecodeEncodeRoundTrip :=
  ⟨fun i => (decode_eq_ok_iff (encode i) i).mpr rfl, fun w i => (decode_eq_ok_iff w i).mp⟩

/-- A command without an operand is refused exactly for a nonzero `arg`. -/
theorem noOperand_error_iff (f : Fields) (i : Instr) :
    (∃ e, noOperand f i = .error e) ↔ f.arg ≠ 0 := by
  unfold noOperand
  split
  · exact iff_of_false nofun (not_not_intro ‹_›)
  · exact iff_of_true ⟨_, rfl⟩ ‹_›

/-- The causes of R84, over the fields. -/
def IllegalFields (f : Fields) : Prop :=
  f.op = 0 ∨ f.rsv ≠ 0 ∨ (f.arg ≠ 0 ∧ (f.op = 1 ∨ f.op = 4 ∨ f.op = 5 ∨ f.op = 7)) ∨
    (f.arg.extractLsb' 1 7 ≠ 0 ∧ f.op = 3)

theorem op_cases : ∀ op : BitVec 3,
    op = 0 ∨ op = 1 ∨ op = 2 ∨ op = 3 ∨ op = 4 ∨ op = 5 ∨ op = 6 ∨ op = 7 := by
  decide

/-- Op code by op code, fields decode to no command exactly for one of R84's causes. -/
theorem decodeFields_error_iff (f : Fields) :
    (∃ e, decodeFields f = .error e) ↔ IllegalFields f := by
  obtain ⟨rsv, op, arg⟩ := f
  unfold decodeFields IllegalFields
  split
  · exact iff_of_true ⟨_, rfl⟩ (.inr (.inl ‹_›))
  · obtain rfl : rsv = 0 := not_not.mp ‹_›
    rcases op_cases op with rfl | rfl | rfl | rfl | rfl | rfl | rfl | rfl <;>
      simp [noOperand_error_iff]
    by_cases hbits : arg.extractLsb' 1 7 = 0#7 <;> simp [hbits]

/-- The operand's upper seven bits are bits 7:1 of the word. -/
theorem extractLsb'_fieldsOf_arg (w : Word) :
    (fieldsOf w).arg.extractLsb' 1 7 = w.extractLsb' 1 7 :=
  BitVec.extractLsb'_extractLsb'_of_le (by decide)

/-- Settles O3: a word's fields have one of the causes exactly when the word has. -/
theorem illegalWordCauses : Obligations.IllegalWordCauses := by
  intro w
  have h := decodeFields_error_iff (fieldsOf w)
  rwa [IllegalFields, extractLsb'_fieldsOf_arg] at h

/-- Settles O4: the decoder evaluated on the nine words. -/
theorem writtenWordsDecode : Obligations.WrittenWordsDecode := by
  unfold Obligations.WrittenWordsDecode
  decide

end Sys2Proof
end

section
/-! What a step can do, with every guard (10_state.md R42, 60_exceptions.md R166): one equation per
move, and their inversion. -/

namespace Sys2Proof.Machine

/-! ## Decoding an offered word -/

theorem decode?_of_ok {w : Word} {i : Instr} (h : decode w = .ok i) : decode? w = some i := by
  rw [decode?, h]

theorem decode?_of_error {w : Word} {e : DecodeError} (h : decode w = .error e) :
    decode? w = none := by
  rw [decode?, h]

/-! ## One equation per move -/

/-- Only a reset at the head of the host's list comes before the engine and the host. -/
theorem chooseMove_of_head {s : State} (h : ∀ rest, s.host ≠ .reset :: rest) :
    chooseMove s = if s.busy then engineMove s else hostMove s := by
  unfold chooseMove
  split
  · exact absurd ‹_› (h _)
  · rfl

theorem currentInstr_tick (s : State) : currentInstr (tick s) = currentInstr s :=
  currentInstr_congr (tick_curOp s) (tick_curArg s)

/-- A busy machine that is not reset performs the micro-operation at UPC of the command latched. -/
theorem step_engine {s : State} {i : Instr} (hr : ∀ rest, s.host ≠ .reset :: rest)
    (hb : s.busy = true) (hi : currentInstr s = some i) :
    step s = microStep (commandOf i) (beforeMicro s) := by
  have hc : chooseMove (tick s) = .run i (beforeMicro s) := by
    rw [chooseMove_of_head (by simpa using hr), tick_busy, hb, if_pos rfl, engineMove,
      currentInstr_tick, hi]
    rfl
  rw [step, hc]
  exact (exec_eq i _).trans (runCommand_busy ((beforeMicro_busy s).trans hb))

/-- A busy machine with no command latched stops. -/
theorem step_lost {s : State} (hr : ∀ rest, s.host ≠ .reset :: rest) (hb : s.busy = true)
    (hi : currentInstr s = none) : step s = .fault .sequencerLost := by
  have hc : chooseMove (tick s) = .lost := by
    rw [chooseMove_of_head (by simpa using hr), tick_busy, hb, if_pos rfl, engineMove,
      currentInstr_tick, hi]
  rw [step, hc]

/-- An idle machine that is offered no word and not reset makes no move of its own. -/
theorem step_idle {s : State} (hb : s.busy = false)
    (hh : s.host = [] ∨ ∃ rest, s.host = .wait :: rest) : step s = .next (beforeMicro s) := by
  unfold step chooseMove
  obtain hh | ⟨rest, hh⟩ := hh <;> simp only [tick_host, hh, tick_busy, hb, hostMove] <;> rfl

/-! ## The inversion -/

/-- All a step that answers a next state can be, with the guard of each move. -/
theorem step_cases {s t : State} (h : step s = .next t) :
    (∃ rest, s.host = .reset :: rest ∧ t = applyReset { tick s with host := rest }) ∨
    (∀ rest, s.host ≠ .reset :: rest) ∧
      ((∃ i, s.busy = true ∧ currentInstr s = some i ∧
          microStep (commandOf i) (beforeMicro s) = .next t) ∨
       (∃ w rest i, s.busy = false ∧ s.host = .issue w :: rest ∧ decode w = .ok i ∧
          t = accept (commandOf i) { tick s with host := rest }) ∨
       (∃ w rest e, s.busy = false ∧ s.host = .issue w :: rest ∧ decode w = .error e ∧
          t = rejectWord { tick s with host := rest }) ∨
       (s.busy = false ∧ (s.host = [] ∨ ∃ rest, s.host = .wait :: rest) ∧ t = beforeMicro s)) := by
  by_cases hr : ∃ rest, s.host = .reset :: rest
  · obtain ⟨rest, hh⟩ := hr
    exact .inl ⟨rest, hh, (Host.Outcome.next.inj ((step_reset hh).symm.trans h)).symm⟩
  refine .inr ⟨not_exists.mp hr, ?_⟩
  cases hb : s.busy with
  | true =>
    cases hi : currentInstr s with
    | none => cases (step_lost (not_exists.mp hr) hb hi).symm.trans h
    | some i => exact .inl ⟨i, rfl, rfl, (step_engine (not_exists.mp hr) hb hi).symm.trans h⟩
  | false =>
    cases hh : s.host with
    | nil =>
      have := step_idle hb (.inl hh)
      exact .inr (.inr (.inr ⟨rfl, .inl rfl, (Host.Outcome.next.inj (this.symm.trans h)).symm⟩))
    | cons m rest =>
      cases m with
      | reset => exact absurd ⟨rest, hh⟩ hr
      | wait =>
        have := step_idle hb (.inr ⟨rest, hh⟩)
        exact .inr (.inr (.inr ⟨rfl, .inr ⟨rest, rfl⟩,
          (Host.Outcome.next.inj (this.symm.trans h)).symm⟩))
      | issue w =>
        cases hd : decode w with
        | ok i =>
          have := step_accept hb hh (decode?_of_ok hd)
          exact .inr (.inl ⟨w, rest, i, rfl, rfl, hd,
            (Host.Outcome.next.inj (this.symm.trans h)).symm⟩)
        | error e =>
          have := step_illegal hb hh (decode?_of_error hd)
          exact .inr (.inr (.inl ⟨w, rest, e, rfl, rfl, hd,
            (Host.Outcome.next.inj (this.symm.trans h)).symm⟩))

/-! ## The engine's move -/

/-- A spin is the only micro-operation that does not advance, and its one abort is the timeout. -/
theorem flowOf_cases (m : MicroOp) (s : State) :
    flowOf m s = .advance ∨
    (∃ v, m = .spinWhile v) ∧ (flowOf m s = .stay ∨ flowOf m s = .abort .spinTimeout) := by
  cases m with
  | spinWhile v =>
    simp only [flowOf]
    split
    · exact .inl rfl
    · split
      · exact .inr ⟨⟨v, rfl⟩, .inr rfl⟩
      · exact .inr ⟨⟨v, rfl⟩, .inl rfl⟩
  | _ => exact .inl rfl

/-- Why a command ends with its micro-operation `m`, performed in `s`, and with which response: the
last entry, or a spin's abort. -/
def Ends (c : Command) (m : MicroOp) (s : State) (r : Response) : Prop :=
  (flowOf m s = .advance ∧ s.upc.toNat + 1 = c.program.length ∧ r = replyOf c.reply (perform m s)) ∨
  (flowOf m s = .abort .spinTimeout ∧ (∃ v, m = .spinWhile v) ∧ r = errorResponse .spinTimeout)

/-- All the engine's move can be: the next entry is entered, a spin samples on, or the command ends. -/
theorem microStep_cases {c : Command} {s t : State} (h : microStep c s = .next t) :
    ∃ m, c.program[s.upc.toNat]? = some m ∧
      ((flowOf m s = .advance ∧ s.upc.toNat + 1 < c.program.length ∧
          t = enter c (s.upc + 1) (perform m s)) ∨
       (flowOf m s = .stay ∧ (∃ v, m = .spinWhile v) ∧ t = perform m s) ∨
       (∃ r, Ends c m s r ∧ t = respond r (perform m s))) := by
  obtain ⟨m, hm, h⟩ := microStep_next h
  have hlt : s.upc.toNat < c.program.length := (List.getElem?_eq_some_iff.mp hm).1
  refine ⟨m, hm, ?_⟩
  obtain ⟨hf, rfl⟩ | ⟨hf, rfl⟩ | ⟨e, hf, rfl⟩ := h
  · obtain ⟨hl, he⟩ | ⟨hl, he⟩ := advance_cases c (perform m s) <;> rw [perform_upc] at hl
    · exact .inl ⟨hf, hl, by rw [he, perform_upc]⟩
    · exact .inr (.inr ⟨_, .inl ⟨hf, by omega, rfl⟩, he⟩)
  · obtain hf' | ⟨hv, -⟩ := flowOf_cases m s
    · cases hf'.symm.trans hf
    · exact .inr (.inl ⟨hf, hv, rfl⟩)
  · obtain hf' | ⟨hv, hf' | hf'⟩ := flowOf_cases m s
    · cases hf'.symm.trans hf
    · cases hf'.symm.trans hf
    · cases hf'.symm.trans hf
      exact .inr (.inr ⟨_, .inr ⟨hf, hv, rfl⟩, rfl⟩)

/-- UPC inside a micro-program counts on without wrapping. -/
theorem toNat_upc_succ {i : Instr} {u : BitVec 7} (h : u.toNat + 1 < (commandOf i).program.length) :
    (u + 1).toNat = u.toNat + 1 := by
  have := program_length_le i
  rw [BitVec.toNat_add]
  exact Nat.mod_eq_of_lt (by simp; omega)

end Sys2Proof.Machine
end

section
/-! The sequencer stays where R35 says it can be (10_state.md R35). -/

namespace Sys2Proof.Machine

theorem sequencerOk_idle {s : State} (hb : s.busy = false) (hu : s.upc = 0) : SequencerOk s :=
  ⟨fun _ => hu, fun h => absurd (hb.symm.trans h) nofun⟩

theorem sequencerOk_busy {s : State} {i : Instr} (hb : s.busy = true)
    (hi : currentInstr s = some i) (hu : s.upc.toNat < (commandOf i).program.length) :
    SequencerOk s :=
  ⟨fun h => absurd (hb.symm.trans h) nofun, fun _ => ⟨i, hi, hu⟩⟩

theorem program_length_pos (i : Instr) : 0 < (commandOf i).program.length := by
  cases i <;> exact Nat.succ_pos _

theorem currentInstr_beforeMicro (s : State) : currentInstr (beforeMicro s) = currentInstr s :=
  currentInstr_congr (beforeMicro_curOp s) (beforeMicro_curArg s)

theorem currentInstr_perform (m : MicroOp) (s : State) :
    currentInstr (perform m s) = currentInstr s :=
  currentInstr_congr (perform_curOp m s) (perform_curArg m s)

theorem sequencerOk_accept (i : Instr) (s : State) : SequencerOk (accept (commandOf i) s) :=
  sequencerOk_busy (accept_busy _ s) (currentInstr_accept i s)
    (by rw [accept_upc]; exact program_length_pos i)

/-- The engine's move keeps UPC inside the micro-program or ends the command. -/
theorem microStep_keeps_sequencerOk {s t : State} {i : Instr} (hb : s.busy = true)
    (hi : currentInstr s = some i) (h : microStep (commandOf i) s = .next t) : SequencerOk t := by
  obtain ⟨m, hm, ⟨-, hl, rfl⟩ | ⟨-, -, rfl⟩ | ⟨r, -, rfl⟩⟩ := microStep_cases h
  · refine sequencerOk_busy ((perform_busy m s).trans hb) ((currentInstr_perform m s).trans hi) ?_
    rwa [enter_upc, toNat_upc_succ hl]
  · refine sequencerOk_busy ((perform_busy m s).trans hb) ((currentInstr_perform m s).trans hi) ?_
    rw [perform_upc]
    exact (List.getElem?_eq_some_iff.mp hm).1
  · exact sequencerOk_idle rfl rfl

/-- Settles O44: move by move; each ends at UPC 0 of an idle machine, or inside a micro-program. -/
theorem stepKeepsSequencerSound : Obligations.StepKeepsSequencerSound := by
  intro s t hs h
  obtain ⟨rest, -, rfl⟩ | ⟨-, ⟨i, hb, hi, hm⟩ | ⟨w, rest, i, -, -, -, rfl⟩ | ⟨w, rest, e, -, -, -, rfl⟩ |
    ⟨hb, -, rfl⟩⟩ := step_cases h
  · exact sequencerOk_idle rfl rfl
  · exact microStep_keeps_sequencerOk ((beforeMicro_busy s).trans hb)
      ((currentInstr_beforeMicro s).trans hi) hm
  · exact sequencerOk_accept i _
  · exact sequencerOk_idle rfl rfl
  · exact sequencerOk_idle ((beforeMicro_busy s).trans hb) ((beforeMicro_upc s).trans (hs.1 hb))

/-- Settles O47: every move but the engine's always answers a next state, and the engine's does
inside its micro-program. -/
theorem soundSequencerNeverStops : Obligations.SoundSequencerNeverStops := by
  rintro s ⟨-, hbusy⟩
  by_cases hr : ∃ rest, s.host = .reset :: rest
  · obtain ⟨rest, hh⟩ := hr
    exact ⟨_, step_reset hh⟩
  cases hb : s.busy with
  | true =>
    obtain ⟨i, hi, hu⟩ := hbusy hb
    rw [step_engine (not_exists.mp hr) hb hi]
    exact microStep_progress (by rwa [beforeMicro_upc])
  | false =>
    cases hh : s.host with
    | nil => exact ⟨_, step_idle hb (.inl hh)⟩
    | cons m rest =>
      cases m with
      | reset => exact absurd ⟨rest, hh⟩ hr
      | wait => exact ⟨_, step_idle hb (.inr ⟨rest, hh⟩)⟩
      | issue w =>
        cases hd : decode w with
        | ok i => exact ⟨_, step_accept hb hh (decode?_of_ok hd)⟩
        | error e => exact ⟨_, step_illegal hb hh (decode?_of_error hd)⟩

end Sys2Proof.Machine
end

section
/-! The pins follow the micro-program (10_state.md R38): what `Pins.after` says of a micro-operation is
what it does, so at a command's end the latches are those its micro-program gives. -/

namespace Sys2Proof.Machine

/-! ## Latches that agree with what a micro-program has made of them -/

/-- The pin latches are what `p` says of them, where it says something. -/
def PinsAgree (p : Pins) (s : State) : Prop :=
  (∀ v, p.scl = some v → s.sclLat = v) ∧ (∀ v, p.sda = some v → s.sdaLat = v) ∧
  ∀ d, p.dir = some d → s.sdaDir = d

/-- Agreement is about the three latches only. -/
theorem PinsAgree.of_latches {p : Pins} {s t : State} (h : PinsAgree p s)
    (hscl : t.sclLat = s.sclLat) (hsda : t.sdaLat = s.sdaLat) (hdir : t.sdaDir = s.sdaDir) :
    PinsAgree p t := by
  rwa [PinsAgree, hscl, hsda, hdir]

/-- A micro-operation keeps the latches in agreement, if the bit it may send is TXSR's own. -/
theorem PinsAgree.perform {p : Pins} {m : MicroOp} {s : State} (h : PinsAgree p s)
    (htx : m = .setSda .txMsb → s.txsr = p.tx) : PinsAgree (p.after m) (perform m s) := by
  obtain ⟨hscl, hsda, hdir⟩ := h
  cases m with
  | setScl v => exact ⟨fun _ hv => Option.some.inj hv, hsda, hdir⟩
  | setSda src =>
    cases src with
    | const v => exact ⟨hscl, fun _ hv => Option.some.inj hv, hdir⟩
    | txMsb =>
      refine ⟨hscl, fun v hv => ?_, hdir⟩
      rw [← Option.some.inj hv, ← htx rfl]
      rfl
  | setDir d => exact ⟨hscl, hsda, fun _ hv => Option.some.inj hv⟩
  | sampleAcc =>
    exact PinsAgree.of_latches ⟨hscl, hsda, hdir⟩ (sampleAcc_sclLat s) (sampleAcc_sdaLat s)
      (sampleAcc_sdaDir s)
  | sampleAck =>
    exact PinsAgree.of_latches ⟨hscl, hsda, hdir⟩ (sampleAck_sclLat s) (sampleAck_sdaLat s)
      (sampleAck_sdaDir s)
  | spinWhile v =>
    exact PinsAgree.of_latches ⟨hscl, hsda, hdir⟩ (sampleSpin_sclLat s) (sampleSpin_sdaLat s)
      (sampleSpin_sdaDir s)
  | _ => exact ⟨hscl, hsda, hdir⟩

theorem perform_txsr_eq_after {p : Pins} {m : MicroOp} {s : State} (h : s.txsr = p.tx) :
    (perform m s).txsr = (p.after m).tx := by
  cases m with
  | setSda src => cases src <;> simpa [perform, Pins.after] using h
  | _ => simp [perform, Pins.after, h]

/-- The pins after one more entry. -/
theorem pinsAt_succ {i : Instr} {k : ℕ} {m : MicroOp} (h : (commandOf i).program[k]? = some m) :
    pinsAt i (k + 1) = (pinsAt i k).after m := by
  rw [pinsAt, List.take_add_one, h, Option.toList_some, List.foldl_append]
  rfl

/-- Only a byte command sends TXSR, and it has loaded its byte there (R107, R114). -/
theorem init_of_setSda_txMsb {i : Instr} {k : ℕ}
    (h : (commandOf i).program[k]? = some (.setSda .txMsb)) :
    (commandOf i).init = .loadTxsr (argOf i) := by
  obtain ⟨b, rfl⟩ | ⟨b, rfl⟩ := byteCommand_of_txsr_mem (.inl (List.mem_of_getElem? h)) <;> rfl

theorem followsProgram_iff {i : Instr} {s : State} :
    FollowsProgram i s ↔ PinsAgree (pinsAt i s.upc.toNat) s ∧
      ((commandOf i).init = .loadTxsr (argOf i) → s.txsr = (pinsAt i s.upc.toNat).tx) := by
  unfold FollowsProgram PinsAgree
  rw [and_assoc, and_assoc]

/-- The entry at UPC, performed, brings the latches to where the micro-program has them next. -/
theorem FollowsProgram.perform {i : Instr} {s : State} {m : MicroOp} (h : FollowsProgram i s)
    (hm : (commandOf i).program[s.upc.toNat]? = some m) :
    PinsAgree (pinsAt i (s.upc.toNat + 1)) (perform m s) ∧
      ((commandOf i).init = .loadTxsr (argOf i) →
        (perform m s).txsr = (pinsAt i (s.upc.toNat + 1)).tx) := by
  obtain ⟨hp, htx⟩ := followsProgram_iff.mp h
  rw [pinsAt_succ hm]
  exact ⟨hp.perform fun e => htx (init_of_setSda_txMsb (e ▸ hm)),
    fun hi => perform_txsr_eq_after (htx hi)⟩

/-- A spin writes no latch. -/
theorem PinsAgree.spin {p : Pins} {s : State} {v : Level} (h : PinsAgree p s) :
    PinsAgree p (Machine.perform (.spinWhile v) s) :=
  h.perform (m := .spinWhile v) nofun

/-! ## The end of a command -/

/-- At the end of every micro-program the clock is low or data is high. -/
theorem pinsAt_length (i : Instr) :
    (pinsAt i (commandOf i).program.length).scl = some false ∨
      (pinsAt i (commandOf i).program.length).sda = some true := by
  cases i with
  | i2cStop => exact .inr rfl
  | _ => exact .inl rfl

/-- SHT_CMD's three spins (R142). -/
theorem shtCmd_spin_index {b : Byte} {k : ℕ} {v : Level}
    (h : (commandOf (.shtCmd b)).program[k]? = some (.spinWhile v)) : k = 42 ∨ k = 45 ∨ k = 46 := by
  have hk : k < 47 := (List.getElem?_eq_some_iff.mp h).1
  have hall : ∀ k < 47, isSpin shtCmdProgram[k]? = true → k = 42 ∨ k = 45 ∨ k = 46 := by decide
  exact hall k hk (by rw [show shtCmdProgram[k]? = some (.spinWhile v) from h]; rfl)

/-- In every spin the clock is low and data an input. -/
theorem pinsAt_spin {i : Instr} {k : ℕ} {v : Level}
    (h : (commandOf i).program[k]? = some (.spinWhile v)) :
    (pinsAt i k).scl = some false ∧ (pinsAt i k).dir = some .inp := by
  obtain ⟨b, rfl⟩ := shtCmd_of_spinWhile_mem (List.mem_of_getElem? h)
  obtain rfl | rfl | rfl := shtCmd_spin_index h <;> exact ⟨rfl, rfl⟩

/-- However a command ends, it does not leave (1, 0) on the lines. -/
theorem not_oneZero_of_ends {i : Instr} {m : MicroOp} {s : State} {r : Response}
    (h : FollowsProgram i s) (hm : (commandOf i).program[s.upc.toNat]? = some m)
    (he : Ends (commandOf i) m s r) :
    ¬((perform m s).sclLat = true ∧ (perform m s).sdaLat = false) := by
  rintro ⟨hhigh, hlow⟩
  obtain ⟨-, hl, -⟩ | ⟨-, ⟨v, rfl⟩, -⟩ := he
  · obtain ⟨⟨hscl, hsda, -⟩, -⟩ := h.perform hm
    rw [hl] at hscl hsda
    obtain hp | hp := pinsAt_length i
    · cases hhigh.symm.trans (hscl _ hp)
    · cases hlow.symm.trans (hsda _ hp)
  · obtain ⟨hscl, -⟩ := (followsProgram_iff.mp h).1.spin (v := v)
    cases hhigh.symm.trans (hscl _ (pinsAt_spin hm).1)

/-! ## Every step keeps the invariant -/

theorem pinsOk_idle {s : State} (hb : s.busy = false) (hu : s.upc = 0)
    (hp : ¬(s.sclLat = true ∧ s.sdaLat = false)) : PinsOk s :=
  ⟨sequencerOk_idle hb hu, fun _ => hp, fun _ h => absurd (hb.symm.trans h) nofun⟩

theorem pinsOk_busy {s : State} {i : Instr} (hs : SequencerOk s) (hb : s.busy = true)
    (hi : currentInstr s = some i) (hf : FollowsProgram i s) : PinsOk s := by
  refine ⟨hs, fun h => absurd (hb.symm.trans h) nofun, fun j _ hj => ?_⟩
  obtain rfl : i = j := Option.some.inj (hi.symm.trans hj)
  exact hf

/-- Acceptance writes no latch but TXSR, where a byte command finds its byte. -/
theorem followsProgram_accept (i : Instr) (s : State) :
    FollowsProgram i (accept (commandOf i) s) := by
  rw [followsProgram_iff, accept_upc]
  refine ⟨⟨nofun, nofun, nofun⟩, fun hi => ?_⟩
  rw [accept, hi]
  rfl

/-- The engine's move keeps the pins following the micro-program. -/
theorem microStep_keeps_pinsOk {s t : State} {i : Instr} (hb : s.busy = true)
    (hi : currentInstr s = some i) (hf : FollowsProgram i s)
    (h : microStep (commandOf i) s = .next t) : PinsOk t := by
  have hseq := microStep_keeps_sequencerOk hb hi h
  obtain ⟨m, hm, ⟨-, hl, rfl⟩ | ⟨-, ⟨v, rfl⟩, rfl⟩ | ⟨r, he, rfl⟩⟩ := microStep_cases h
  · refine pinsOk_busy hseq ((perform_busy m s).trans hb) ((currentInstr_perform m s).trans hi) ?_
    rw [followsProgram_iff, enter_upc, toNat_upc_succ hl]
    exact hf.perform hm
  · refine pinsOk_busy hseq ((perform_busy _ s).trans hb) ((currentInstr_perform _ s).trans hi) ?_
    obtain ⟨hp, htx⟩ := followsProgram_iff.mp hf
    rw [followsProgram_iff, perform_upc]
    exact ⟨hp.spin, fun hi => (perform_txsr_eq_after (m := .spinWhile v) (htx hi))⟩
  · exact pinsOk_idle rfl rfl (not_oneZero_of_ends hf hm he)

/-- What precedes the engine's move touches neither latch nor UPC. -/
theorem FollowsProgram.beforeMicro {i : Instr} {s : State} (h : FollowsProgram i s) :
    FollowsProgram i (beforeMicro s) := by
  unfold FollowsProgram at h ⊢
  simpa using h

theorem pinsOk_reset (s : State) : PinsOk (applyReset s) :=
  pinsOk_idle rfl rfl nofun

/-- Settles O46: the reset state is idle with both latches high. -/
theorem resetMeetsTheInvariants : Obligations.ResetMeetsTheInvariants :=
  pinsOk_idle rfl rfl nofun

/-- Settles O45: the engine's move by the latches following the micro-program; every other move ends
where both latches are high, untouched, or at the start of a micro-program. -/
theorem stepKeepsPinsFollowingTheProgram : Obligations.StepKeepsPinsFollowingTheProgram := by
  rintro s t ⟨hseq, hidle, hbusy⟩ h
  obtain ⟨rest, -, rfl⟩ | ⟨-, ⟨i, hb, hi, hm⟩ | ⟨w, rest, i, -, -, -, rfl⟩ |
    ⟨w, rest, e, hb, -, -, rfl⟩ | ⟨hb, -, rfl⟩⟩ := step_cases h
  · exact pinsOk_reset _
  · exact microStep_keeps_pinsOk ((beforeMicro_busy s).trans hb)
      ((currentInstr_beforeMicro s).trans hi) (hbusy i hb hi).beforeMicro hm
  · exact pinsOk_busy (sequencerOk_accept i _) (accept_busy _ _) (currentInstr_accept i _)
      (followsProgram_accept i _)
  · exact pinsOk_idle rfl rfl (by simpa using hidle hb)
  · exact pinsOk_idle ((beforeMicro_busy s).trans hb) ((beforeMicro_upc s).trans (hseq.1 hb))
      (by simpa using hidle hb)

/-! ## Samples of an SHT15 command -/

/-- SHT_READ16 samples only with data an input (R143). -/
theorem pinsAt_shtRead16_sample {k : ℕ}
    (h : (commandOf .shtRead16).program[k]? = some .sampleAcc) :
    (pinsAt .shtRead16 k).dir = some .inp := by
  have hk : k < 88 := (List.getElem?_eq_some_iff.mp h).1
  have hall : ∀ k < 88, (commandOf .shtRead16).program[k]? = some .sampleAcc →
      (pinsAt .shtRead16 k).dir = some .inp := by decide +kernel
  exact hall k hk h

/-- Where an SHT15 command samples, its micro-program has made data an input (R140). -/
theorem pinsAt_sht_sample {i : Instr} {k : ℕ} {m : MicroOp}
    (hi : i = .shtStart ∨ (∃ b, i = .shtCmd b) ∨ i = .shtRead16)
    (hm : (commandOf i).program[k]? = some m)
    (hs : m = .sampleAcc ∨ m = .sampleAck ∨ isSpin (some m) = true) :
    (pinsAt i k).dir = some .inp := by
  have hmem := List.mem_of_getElem? hm
  obtain rfl | rfl | hspin := hs
  · obtain ⟨a, rfl⟩ | rfl := read_of_sampleAcc_mem hmem
    · simp at hi
    · exact pinsAt_shtRead16_sample hm
  · obtain ⟨b, rfl⟩ := i2cWrite_of_sampleAck_mem hmem
    simp at hi
  · cases m with
    | spinWhile v => exact (pinsAt_spin hm).2
    | _ => cases hspin

/-- Settles O49: at a sample the micro-program has made data an input, and the latches follow it. -/
theorem shtSamplesOnlyAReleasedLine : Obligations.ShtSamplesOnlyAReleasedLine := by
  rintro s i m ⟨-, -, hf⟩ hb hi hsht hm hs
  obtain ⟨-, -, hdir, -⟩ := hf i hb hi
  have hinp : s.sdaDir = .inp := hdir _ (pinsAt_sht_sample hsht hm hs)
  exact ⟨by rw [driveSda_eq, if_pos hinp], sampledLevel_of_level (sdaWire_inp hinp)⟩

end Sys2Proof.Machine
end

section
/-! The wires, what a sample returns, and the host's ports (20_memory.md R52 to R57, 10_state.md R40). -/

namespace Sys2Proof.Machine

/-- Settles O6: each row by the definition of `resolve`, and each wire by its own. -/
theorem wireResolution : Obligations.WireResolution :=
  ⟨rfl, rfl, rfl, rfl, rfl, rfl, fun _ => rfl, fun _ => rfl⟩

theorem contended_iff (s : State) :
    Contended s ↔ PushesHigh s ∧ s.sdaLat = true ∧ s.pSda = .low := by
  rw [Contended, sdaWire_eq_contention_iff, driveSda_eq_high_iff, PushesHigh]
  tauto

theorem countDraw_of_contended {s : State} (h : sdaWire s = .contention) :
    countDraw s = { s with draws := s.draws + 1 } := by
  rw [countDraw, h]

theorem countDraw_of_not_contended {s : State} (h : sdaWire s ≠ .contention) : countDraw s = s := by
  unfold countDraw
  split
  · rfl
  · exact absurd ‹_› h

theorem sampledLevel_of_contention {s : State} (h : sdaWire s = .contention) :
    sampledLevel s = Config.contendedSample s.draws := by
  rw [sampledLevel, h]

/-- Settles O7: in each of R55's cases the wire is the one the model's law for that pin state gives. -/
theorem sampleByPinState : Obligations.SampleByPinState := by
  intro s
  refine ⟨fun hin => sampledLevel_of_level (sdaWire_inp hin),
    fun hout hl => sampledLevel_of_level (sdaWire_low hout hl),
    fun _ hl ho => sampledLevel_of_level (sdaWire_openDrain ho hl),
    fun _ hl _ hp => sampledLevel_of_level (sdaWire_unpulled hp hl), fun hout hl ho hp => ?_⟩
  have hc : sdaWire s = .contention := (contended_iff s).mpr ⟨⟨hout, ho⟩, hl, hp⟩
  exact ⟨hc, sampledLevel_of_contention hc, congrArg State.draws (countDraw_of_contended hc)⟩

/-- A micro-operation performed where data is not contended draws no free value. -/
theorem perform_draws_of_not_contended {m : MicroOp} {s : State} (h : sdaWire s ≠ .contention) :
    (perform m s).draws = s.draws := by
  cases m with
  | sampleAcc =>
    exact (congrArg State.draws
      (countDraw_of_not_contended (s := { s with acc := accumulate s.acc (sampledLevel s) }) h) :)
  | sampleAck =>
    exact (congrArg State.draws
      (countDraw_of_not_contended (s := { s with ack := ackOf (sampledLevel s) }) h) :)
  | spinWhile v =>
    exact (congrArg State.draws
      (countDraw_of_not_contended (s := { s with spinCnt := s.spinCnt + 1 }) h) :)
  | _ => rfl

theorem not_contended_of_openDrain {s : State} (h : s.odEn = true) : sdaWire s ≠ .contention :=
  fun hc => nomatch h.symm.trans ((contended_iff s).mp hc).1.2

/-- Only the engine's move can draw, and it does so only under contention. -/
theorem microStep_draws_of_not_contended {c : Command} {s t : State} (h : microStep c s = .next t)
    (hc : sdaWire s ≠ .contention) : t.draws = s.draws := by
  obtain ⟨m, -, ⟨-, -, rfl⟩ | ⟨-, -, rfl⟩ | ⟨r, -, rfl⟩⟩ := microStep_cases h <;>
    exact perform_draws_of_not_contended hc

/-- Settles O8: R52's contention in terms of the latches; open-drain mode excludes it, and no other
move of a step draws. -/
theorem contentionNeedsPushPull : Obligations.ContentionNeedsPushPull := by
  refine ⟨contended_iff, fun s t ho h => ?_⟩
  obtain ⟨rest, -, rfl⟩ | ⟨-, ⟨i, -, -, hm⟩ | ⟨w, rest, i, -, -, -, rfl⟩ |
    ⟨w, rest, e, -, -, -, rfl⟩ | ⟨-, -, rfl⟩⟩ := step_cases h
  · exact tick_draws s
  · have hnot := not_contended_of_openDrain ((beforeMicro_odEn s).trans ho)
    exact (microStep_draws_of_not_contended hm hnot).trans (beforeMicro_draws s)
  · exact (accept_draws _ _).trans (tick_draws s)
  · exact tick_draws s
  · exact beforeMicro_draws s

theorem cmdValid_iff (s : State) : cmdValid s = true ↔ ∃ w rest, s.host = .issue w :: rest := by
  unfold cmdValid
  split
  · exact iff_of_true rfl ⟨_, _, ‹_›⟩
  · rename_i hnone
    exact iff_of_false nofun fun ⟨w, rest, hh⟩ => hnone w rest hh

theorem errBits_ne_three (e : ErrCode) : errBits e ≠ 3 := by
  cases e <;> decide

/-- Settles O9: the ports by their definitions; the offered word by the head of the host's list. -/
theorem portsShowTheLatches : Obligations.PortsShowTheLatches := by
  refine fun s => ⟨rfl, cmdValid_iff s, ?_, errBits_ne_three s.err⟩
  cases h : s.err <;> simp [responsePorts, errBits, h]

end Sys2Proof.Machine
end

section
/-! The micro-operations that write no pin, and the transmit shift (40_line_and_delay_primitives.md
R104, R106, R107). -/

namespace Sys2Proof.Machine

/-- Settles O14: both forms by definition. -/
theorem waitChangesNoLine : Obligations.WaitChangesNoLine :=
  fun _ _ => ⟨rfl, rfl, rfl, rfl⟩

/-- The draw and the count of a spin's sample do not meet. -/
theorem perform_spinWhile (v : Level) (s : State) :
    perform (.spinWhile v) s =
      { countDraw s with
        spinCnt := s.spinCnt + 1,
        log := .micro (.sample (sampledLevel s)) (sclWire s) (sdaWire s) :: s.log } := by
  by_cases h : sdaWire s = .contention
  · rw [perform, sampleSpin, countDraw_of_contended h,
      countDraw_of_contended (s := { s with spinCnt := s.spinCnt + 1 }) h]
    rfl
  · rw [perform, sampleSpin, countDraw_of_not_contended h,
      countDraw_of_not_contended (s := { s with spinCnt := s.spinCnt + 1 }) h]
    rfl

theorem flowOf_spin_unlimited {v : Level} {s : State} (hv : sampledLevel s = v)
    (hl : s.spinLimit = .unlimited) : flowOf (.spinWhile v) s = .stay := by
  simp [flowOf, hv, hl, spinLimitReached]

theorem flowOf_spin_limited {v : Level} {s : State} {n : ℕ} (hv : sampledLevel s = v)
    (hl : s.spinLimit = .samples n) :
    flowOf (.spinWhile v) s = if s.spinCnt + 1 = n then .abort .spinTimeout else .stay := by
  simp [flowOf, hv, hl, spinLimitReached]

theorem perform_spin_samePins (v : Level) (s : State) : SamePins s (perform (.spinWhile v) s) :=
  ⟨sampleSpin_sclLat s, sampleSpin_sdaLat s, sampleSpin_sdaDir s, sampleSpin_odEn s⟩

/-- Settles O15: one lemma for each way a spin goes on, the differing sample first. -/
theorem spinSamplesUntilTheLevelChanges : Obligations.SpinSamplesUntilTheLevelChanges :=
  fun v s => ⟨perform_spinWhile v s, perform_spin_samePins v s,
    (flowOf_spinWhile_eq_advance_iff v s).mpr, flowOf_spin_unlimited, fun _ => flowOf_spin_limited,
    fun _ _ => shtCmd_of_spinWhile_mem⟩

/-- `k` shifts by one are one shift by `k`. -/
theorem iterate_shiftTx (b : Byte) (k : ℕ) : shiftTx^[k] b = b <<< k := by
  induction k with
  | zero => simp
  | succ k ih => rw [Function.iterate_succ_apply', ih, shiftTx, BitVec.shiftLeft_add]

theorem getLsbD_iterate_shiftTx (b : Byte) {k : ℕ} (hk : k < 8) :
    (shiftTx^[k] b).getLsbD 7 = b.getLsbD (7 - k) := by
  rw [iterate_shiftTx, BitVec.getLsbD_shiftLeft]
  simp
  omega

theorem iterate_shiftTx_eight (b : Byte) : shiftTx^[8] b = 0 := by
  rw [iterate_shiftTx]
  exact BitVec.shiftLeft_eq_zero le_rfl

/-- Settles O16: the register after `k` shifts is `b <<< k`. -/
theorem transmitShiftSendsMsbFirst : Obligations.TransmitShiftSendsMsbFirst := by
  refine ⟨fun b k => ?_, fun b k => getLsbD_iterate_shiftTx b, iterate_shiftTx_eight⟩
  rw [iterate_shiftTx, BitVec.toNat_shiftLeft, Nat.shiftLeft_eq]

end Sys2Proof.Machine
end

section
/-! The delays (60_exceptions.md R170, 70_reset_and_hazards.md R193, R194). -/

namespace Sys2Proof.Machine

/-- Rounding up to whole millionths: at least the quotient, by less than one. -/
theorem delayCount_bounds (f : ℕ) (d : Delay) :
    delayMicros d * f ≤ delayCount f d * 1000000 ∧
      delayCount f d * 1000000 < delayMicros d * f + 1000000 := by
  unfold delayCount
  generalize delayMicros d * f = n
  omega

/-- Settles O57: the count is the rounded-up quotient. -/
theorem delayCountIsTheLeastEnough : Obligations.DelayCountIsTheLeastEnough := delayCount_bounds

/-- An entry lasts at least what it waits. -/
theorem microWait_le_microCycles (m : MicroOp) :
    microWait m * Config.fClkHz ≤ microCycles m * 1000000 := by
  cases m with
  | wait d => exact (delayCount_bounds Config.fClkHz d).1
  | waitShift d => exact (delayCount_bounds Config.fClkHz d).1
  | _ => exact (Nat.zero_mul Config.fClkHz).trans_le (Nat.zero_le _)

theorem sum_microWait_le (ms : List MicroOp) :
    (ms.map microWait).sum * Config.fClkHz ≤ (ms.map microCycles).sum * 1000000 := by
  induction ms with
  | nil => simp
  | cons m ms ih =>
    simp only [List.map_cons, List.sum_cons, Nat.add_mul]
    exact Nat.add_le_add (microWait_le_microCycles m) ih

/-- Settles O59: entry by entry. -/
theorem commandLastsItsWaits : Obligations.CommandLastsItsWaits :=
  fun i => sum_microWait_le (commandOf i).program

/-- Settles O58: the table evaluated on each micro-program; an operand changes no Wait. -/
theorem waitTotals : Obligations.WaitTotals := by
  intro i
  cases i with
  | i2cRead a => cases a <;> rfl
  | _ => rfl

end Sys2Proof.Machine
end

section
/-! What each move of a step does to the state: the host's moves (10_state.md R41, 30_encoding.md R84,
70_reset_and_hazards.md R180), and the engine's, whose sequencing leaves all a micro-operation writes. -/

namespace Sys2Proof.Machine

/-! ## The host's moves -/

/-- The environment moves whatever the host offers. -/
theorem tick_withFetchWord (s : State) (nbits w : ℕ) :
    tick (s.withFetchWord nbits w) = (tick s).withFetchWord nbits w := by
  unfold tick envMove
  rw [show (s.withFetchWord nbits w).env = s.env from rfl]
  split <;> rfl

/-- Settles O19: each move's equation; `withFetchWord` puts its word at the head of the host's list of
an idle machine. -/
theorem stepRunsTheDecodedCommand : Obligations.StepRunsTheDecodedCommand := by
  have hoffer : ∀ (s : State) (w : Word) (rest : List HostMove) (i : Instr), s.busy = false →
      s.host = .issue w :: rest → decode? w = some i →
      step s = exec i { tick s with host := rest } := by
    intro s w rest i hb hh hd
    rw [step_accept hb hh hd, exec_eq]
    exact (runCommand_idle (s := { tick s with host := rest }) ((tick_busy s).trans hb)).symm
  refine ⟨fun s w rest i hb hh hd => hoffer s w rest i hb hh (decode?_of_ok hd), fun s i hb hr hi => ?_,
    fun s w i hd => ?_⟩
  · rw [step_engine hr hb hi, exec_eq, ← runCommand_busy ((beforeMicro_busy s).trans hb)]
    rfl
  · rw [hoffer (s.withFetchWord 16 w) _ _ i rfl rfl hd, tick_withFetchWord, ← tick_host s]
    rfl

theorem rejectWord_completed (s : State) : Completed (rejectWord s) (errorResponse .illegalCmd) :=
  completed_respond _ s

/-- Settles O21: the step is `rejectWord` after the environment's moves. -/
theorem illegalWordIsConsumed : Obligations.IllegalWordIsConsumed := by
  intro s w rest e hb hh hd
  refine ⟨_, step_illegal hb hh (decode?_of_error hd), rejectWord_completed _, ?_⟩
  simp only [SamePins, rejectWord_sclLat, rejectWord_sdaLat, rejectWord_sdaDir, rejectWord_odEn,
    rejectWord_txsr, rejectWord_acc, rejectWord_host, rejectWord_curOp, rejectWord_curArg,
    rejectWord_log, tick_sclLat, tick_sdaLat, tick_sdaDir, tick_odEn, tick_txsr, tick_acc, tick_curOp,
    tick_curArg, tick_log, envMove_log, and_self, true_and]
  rfl

theorem applyReset_itemsAtReset (s : State) : ItemsAtReset (applyReset s) := itemsAtReset_reset

/-- Settles O23: the step is `applyReset` after the environment's moves. -/
theorem resetWinsOverEverything : Obligations.ResetWinsOverEverything := by
  intro s rest hh
  refine ⟨_, step_reset hh, applyReset_itemsAtReset _, rfl, ?_, tick_spinLimit s⟩
  rw [applyReset_log]
  exact congrArg _ (tick_log s |>.trans (envMove_log s).symm)

/-- Settles O25: the step is the environment's moves and the host's pause. -/
theorem idleMachineHoldsItsLines : Obligations.IdleMachineHoldsItsLines := by
  intro s hb hh
  refine ⟨_, step_idle hb hh, ?_⟩
  simp [SamePins, SameResponse, hb]

/-! ## The engine's move leaves what its micro-operation wrote -/

/-- `t` has of `x` all that the sequencer does not write itself: it writes BUSY, UPC, SPIN_CNT, the
response latches, the strobe and the record. -/
structure SequencedFrom (x t : State) : Prop where
  pins    : SamePins x t
  outside : SameOutside x t
  txsr    : t.txsr = x.txsr
  acc     : t.acc = x.acc
  ack     : t.ack = x.ack
  curOp   : t.curOp = x.curOp
  curArg  : t.curArg = x.curArg
  draws   : t.draws = x.draws
  dlyCnt  : t.dlyCnt = x.dlyCnt

theorem sequencedFrom_self (x : State) : SequencedFrom x x :=
  ⟨⟨rfl, rfl, rfl, rfl⟩, ⟨rfl, rfl, rfl, rfl⟩, rfl, rfl, rfl, rfl, rfl, rfl, rfl⟩

theorem sequencedFrom_enter (c : Command) (k : BitVec 7) (x : State) :
    SequencedFrom x (enter c k x) :=
  ⟨⟨rfl, rfl, rfl, rfl⟩, ⟨rfl, rfl, rfl, rfl⟩, rfl, rfl, rfl, rfl, rfl, rfl, rfl⟩

theorem sequencedFrom_respond (r : Response) (x : State) : SequencedFrom x (respond r x) :=
  ⟨⟨rfl, rfl, rfl, rfl⟩, ⟨rfl, rfl, rfl, rfl⟩, rfl, rfl, rfl, rfl, rfl, rfl, rfl⟩

theorem microStep_sequencedFrom {c : Command} {s t : State} (h : microStep c s = .next t) :
    ∃ m, c.program[s.upc.toNat]? = some m ∧ SequencedFrom (perform m s) t := by
  obtain ⟨m, hm, ⟨-, -, rfl⟩ | ⟨-, -, rfl⟩ | ⟨r, -, rfl⟩⟩ := microStep_cases h
  · exact ⟨m, hm, sequencedFrom_enter _ _ _⟩
  · exact ⟨m, hm, sequencedFrom_self _⟩
  · exact ⟨m, hm, sequencedFrom_respond _ _⟩

/-- The engine's move raises the strobe exactly when the command ends with it. -/
theorem microStep_rspValid_iff {c : Command} {s t : State} (h : microStep c s = .next t)
    (hb : s.busy = true) (hv : s.rspValid = false) : t.rspValid = true ↔ t.busy = false := by
  obtain ⟨m, -, ⟨-, -, rfl⟩ | ⟨-, -, rfl⟩ | ⟨r, -, rfl⟩⟩ := microStep_cases h <;> simp [hb, hv]

/-- While the command goes on, the engine's move leaves the response and the strobe. -/
theorem microStep_response {c : Command} {s t : State} (h : microStep c s = .next t)
    (ht : t.busy = true) : SameResponse s t ∧ t.rspValid = s.rspValid := by
  obtain ⟨m, -, ⟨-, -, rfl⟩ | ⟨-, -, rfl⟩ | ⟨r, -, rfl⟩⟩ := microStep_cases h
  · simp [SameResponse]
  · simp [SameResponse]
  · cases ht

theorem microStep_upc_of_idle {c : Command} {s t : State} (h : microStep c s = .next t)
    (hb : s.busy = true) (ht : t.busy = false) : t.upc = 0 := by
  obtain ⟨m, -, ⟨-, -, rfl⟩ | ⟨-, -, rfl⟩ | ⟨r, -, rfl⟩⟩ := microStep_cases h
  · simp [hb] at ht
  · simp [hb] at ht
  · rfl

/-- Settles O30: the three ways the engine's move goes on are the statement's. -/
theorem oneMicroOperationAStep : Obligations.OneMicroOperationAStep := by
  intro s t i hb hr hi h
  rw [step_engine hr hb hi] at h
  obtain ⟨m, hm, hgo⟩ := microStep_cases h
  obtain ⟨m', hm', hseq⟩ := microStep_sequencedFrom h
  obtain rfl : m = m' := Option.some.inj (hm.symm.trans hm')
  rw [beforeMicro_upc] at hm
  refine ⟨m, hm, hseq.pins, by simp [hseq.curOp], by simp [hseq.curArg], hseq.txsr, hseq.acc, ?_⟩
  obtain ⟨hf, hl, rfl⟩ | ⟨hf, ⟨v, rfl⟩, rfl⟩ | ⟨r, -, rfl⟩ := hgo
  · refine .inl ⟨by simp [hb], ?_, hf, rfl⟩
    rw [enter_upc, toNat_upc_succ hl, beforeMicro_upc]
  · exact .inr (.inl ⟨by simp [hb], by simp, rfl, hf, rfl⟩)
  · exact .inr (.inr ⟨rfl, rfl, r, completed_respond r _, rfl⟩)

/-- The response of a command that ran to its end, by command (30_encoding.md R89). -/
theorem replyOf_commandOf (i : Instr) (s : State) :
    (replyOf (commandOf i).reply s).data =
      (match i with
        | .i2cRead _ => (s.acc.extractLsb' 0 8).setWidth 16
        | .shtRead16 => s.acc
        | _ => 0) ∧
    (replyOf (commandOf i).reply s).ack =
      (match i with
        | .i2cWrite _ => s.ack
        | _ => false) := by
  cases i <;> exact ⟨rfl, rfl⟩

/-- Settles O26: of the three ways the engine's move goes on only a completion clears BUSY. -/
theorem completionWritesTheResponse : Obligations.CompletionWritesTheResponse := by
  intro i s t hb h ht
  rw [exec_eq, runCommand_busy hb] at h
  obtain ⟨m, hm, ⟨-, -, rfl⟩ | ⟨-, -, rfl⟩ | ⟨r, he, rfl⟩⟩ := microStep_cases h
  · simp [hb] at ht
  · simp [hb] at ht
  · refine ⟨m, r, hm, completed_respond r _, (sequencedFrom_respond r _).pins, rfl, ?_⟩
    obtain ⟨hf, hl, rfl⟩ | ⟨hf, -, rfl⟩ := he
    · obtain ⟨hdata, hack⟩ := replyOf_commandOf i (perform m s)
      exact .inl ⟨hf, hl, replyOf_err _ _, hdata, hack⟩
    · exact .inr ⟨hf, rfl⟩

/-! ## What a whole step does to the response, BUSY and the modes -/

/-- Settles O27: a reset, an acceptance and a pause leave the strobe down, an illegal word raises it,
and the engine's move raises it with the end of its command. -/
theorem strobeMarksTheCompletion : Obligations.StrobeMarksTheCompletion := by
  intro s t h
  obtain ⟨rest, hh, rfl⟩ | ⟨hr, ⟨i, hb, -, hm⟩ | ⟨w, rest, i, hb, hh, hd, rfl⟩ |
    ⟨w, rest, e, hb, hh, hd, rfl⟩ | ⟨hb, hh, rfl⟩⟩ := step_cases h
  · exact iff_of_false nofun fun ⟨hr, _⟩ => hr rest hh
  · rw [microStep_rspValid_iff hm ((beforeMicro_busy s).trans hb) (beforeMicro_rspValid s)]
    exact ⟨fun ht => ⟨hr, .inl ⟨hb, ht⟩⟩, fun ⟨_, hc⟩ => by simpa [hb] using hc⟩
  · simp [hb, hh, hd]
  · simp [hb, hh, hd]
  · obtain hh | ⟨rest, hh⟩ := hh <;> simp [hb, hh]

/-- Settles O28: every move that leaves the strobe down and is no reset leaves the response. -/
theorem responseHoldsUntilTheNextCompletion : Obligations.ResponseHoldsUntilTheNextCompletion := by
  intro s t h
  obtain ⟨rest, hh, rfl⟩ | ⟨-, ⟨i, hb, -, hm⟩ | ⟨w, rest, i, -, -, -, rfl⟩ |
    ⟨w, rest, e, -, -, -, rfl⟩ | ⟨-, -, rfl⟩⟩ := step_cases h
  · exact .inr (.inl ⟨rest, hh⟩)
  · cases ht : t.busy with
    | true => exact .inr (.inr (by simpa [SameResponse] using (microStep_response hm ht).1))
    | false =>
      exact .inl ((microStep_rspValid_iff hm ((beforeMicro_busy s).trans hb)
        (beforeMicro_rspValid s)).mpr ht)
  · exact .inr (.inr (by simp [SameResponse]))
  · exact .inl rfl
  · exact .inr (.inr (by simp [SameResponse]))

/-- Settles O29: of an idle machine's moves only acceptance sets BUSY, and of a busy machine's only the
end of its command and a reset clear it. -/
theorem busySpansTheCommand : Obligations.BusySpansTheCommand := by
  intro s t h
  obtain ⟨rest, hh, rfl⟩ | ⟨-, ⟨i, hb, -, hm⟩ | ⟨w, rest, i, hb, hh, hd, rfl⟩ |
    ⟨w, rest, e, hb, -, -, rfl⟩ | ⟨hb, -, rfl⟩⟩ := step_cases h
  · exact ⟨fun _ ht => absurd ht nofun, fun _ _ => .inr ⟨rest, hh⟩⟩
  · refine ⟨fun hb' => absurd (hb'.symm.trans hb) nofun, fun _ ht => .inl ?_⟩
    have hb' := (beforeMicro_busy s).trans hb
    exact ⟨(microStep_rspValid_iff hm hb' (beforeMicro_rspValid s)).mpr ht,
      microStep_upc_of_idle hm hb' ht⟩
  · refine ⟨fun _ _ => ⟨w, rest, i, hh, hd, currentInstr_accept i _, accept_upc _ _⟩, fun hb' => ?_⟩
    exact absurd (hb'.symm.trans hb) nofun
  · exact ⟨fun _ ht => absurd ht nofun, fun hb' => absurd (hb'.symm.trans hb) nofun⟩
  · exact ⟨fun _ ht => absurd (hb.symm.trans ((beforeMicro_busy s).symm.trans ht)) nofun,
      fun hb' => absurd (hb'.symm.trans hb) nofun⟩

/-! ## What a micro-operation leaves -/

section
variable {m : MicroOp} {s : State}

theorem perform_sdaDir (h : ∀ d, m ≠ .setDir d) : (perform m s).sdaDir = s.sdaDir := by
  cases m with
  | setDir d => exact absurd rfl (h d)
  | _ => simp [perform]

theorem perform_odEn (h : m ≠ .setOd) : (perform m s).odEn = s.odEn := by
  cases m with
  | setOd => exact absurd rfl h
  | _ => simp [perform]

theorem perform_txsr (h : ∀ d, m ≠ .waitShift d) : (perform m s).txsr = s.txsr := by
  cases m with
  | waitShift d => exact absurd rfl (h d)
  | _ => simp [perform]

theorem perform_acc (h : m ≠ .sampleAcc) : (perform m s).acc = s.acc := by
  cases m with
  | sampleAcc => exact absurd rfl h
  | _ => simp [perform]

theorem perform_ack (h : m ≠ .sampleAck) : (perform m s).ack = s.ack := by
  cases m with
  | sampleAck => exact absurd rfl h
  | _ => simp [perform]

theorem perform_spinCnt (h : isSpin (some m) = false) : (perform m s).spinCnt = s.spinCnt := by
  cases m with
  | spinWhile v => cases h
  | _ => simp [perform]

theorem perform_dlyCnt (h : microWait m = 0) : (perform m s).dlyCnt = s.dlyCnt := by
  cases m with
  | wait d => cases d <;> cases h
  | waitShift d => cases d <;> cases h
  | _ => simp [perform]

/-- A micro-operation that takes no sample draws no free value. -/
theorem perform_draws (hacc : m ≠ .sampleAcc) (hack : m ≠ .sampleAck)
    (hspin : isSpin (some m) = false) : (perform m s).draws = s.draws := by
  cases m with
  | sampleAcc => exact absurd rfl hacc
  | sampleAck => exact absurd rfl hack
  | spinWhile v => cases hspin
  | _ => simp [perform]

end

/-- Settles O48: open-drain mode goes off with a reset alone, and on with `SetOD`, which is entry 0 of
I2C_START's micro-program. -/
theorem openDrainIsSetByStartAndClearedByReset :
    Obligations.OpenDrainIsSetByStartAndClearedByReset := by
  intro s t h
  obtain ⟨rest, hh, rfl⟩ | ⟨-, ⟨i, hb, hi, hm⟩ | ⟨w, rest, i, -, -, -, rfl⟩ |
    ⟨w, rest, e, -, -, -, rfl⟩ | ⟨-, -, rfl⟩⟩ := step_cases h
  · exact ⟨tick_spinLimit s, fun _ => .inr ⟨rest, hh⟩, fun _ ht => absurd ht nofun⟩
  · obtain ⟨m, hp, ⟨-, -, -, hod⟩, ⟨hlim, -, -, -⟩, -⟩ := microStep_sequencedFrom hm
    rw [beforeMicro_upc] at hp
    refine ⟨by simpa using hlim, fun ho => .inl ?_, fun ho ht => ?_⟩
    · rw [hod, perform_keeps_odEn m ((beforeMicro_odEn s).trans ho)]
    · by_cases hset : m = .setOd
      · obtain ⟨rfl, hu⟩ := (program_setOd_iff i _).mp (hset ▸ hp)
        exact ⟨hb, hi, BitVec.eq_of_toNat_eq hu⟩
      · rw [hod, perform_odEn hset, beforeMicro_odEn, ho] at ht
        cases ht
  all_goals
    refine ⟨by simp, fun ho => .inl (by simpa using ho), fun ho ht => ?_⟩
    simp [ho] at ht

end Sys2Proof.Machine
end

section
/-! While BUSY = 1 the host's words are not looked at (10_state.md R41, 60_exceptions.md R166). -/

namespace Sys2Proof.Machine

/-- The machine with another list of host's moves. -/
def withHost (hs : List HostMove) (s : State) : State := { s with host := hs }

theorem tick_withHost (hs : List HostMove) (s : State) :
    tick (withHost hs s) = withHost hs (tick s) := by
  unfold tick envMove
  rw [show (withHost hs s).env = s.env from rfl]
  split <;> rfl

theorem countDraw_withHost (hs : List HostMove) (s : State) :
    countDraw (withHost hs s) = withHost hs (countDraw s) := by
  unfold countDraw
  rw [show sdaWire (withHost hs s) = sdaWire s from rfl]
  split <;> rfl

/-- No micro-operation looks at the host. -/
theorem perform_withHost (m : MicroOp) (hs : List HostMove) (s : State) :
    perform m (withHost hs s) = withHost hs (perform m s) := by
  cases m with
  | sampleAcc =>
    exact congrArg (record (.sample (sampledLevel s)))
      (countDraw_withHost hs { s with acc := accumulate s.acc (sampledLevel s) })
  | sampleAck =>
    exact congrArg (record (.sample (sampledLevel s)))
      (countDraw_withHost hs { s with ack := ackOf (sampledLevel s) })
  | spinWhile v =>
    exact congrArg (record (.sample (sampledLevel s)))
      (countDraw_withHost hs { s with spinCnt := s.spinCnt + 1 })
  | _ => rfl

theorem advance_withHost (c : Command) (hs : List HostMove) (s : State) :
    advance c (withHost hs s) = withHost hs (advance c s) := by
  unfold advance
  rw [show (withHost hs s).upc = s.upc from rfl]
  split
  · rfl
  · cases c.reply <;> rfl

/-- Nor does the engine's move. -/
theorem microStep_withHost {c : Command} {s t : State} (hs : List HostMove)
    (h : microStep c s = .next t) : microStep c (withHost hs s) = .next (withHost hs t) := by
  obtain ⟨m, hm, hgo⟩ := microStep_next h
  unfold microStep
  rw [show (withHost hs s).upc = s.upc from rfl, hm]
  have hflow : flowOf m (withHost hs s) = flowOf m s := by cases m <;> rfl
  obtain ⟨hf, rfl⟩ | ⟨hf, rfl⟩ | ⟨e, hf, rfl⟩ := hgo
  · simp only [hflow, hf, perform_withHost, advance_withHost]
  · simp only [hflow, hf, perform_withHost]
  · simp only [hflow, hf, perform_withHost]
    rfl

/-- A busy machine's host that offers a word goes on offering it. -/
theorem beforeMicro_withHost_issue (w : Word) (rest : List HostMove) (s : State) :
    beforeMicro (withHost (.issue w :: rest) s) = withHost (.issue w :: rest) (tick s) := by
  rw [beforeMicro, tick_withHost]
  rfl

/-- Settles O22: the engine's move neither reads nor writes the host's list, whose word stays held. -/
theorem busyIgnoresTheOfferedWord : Obligations.BusyIgnoresTheOfferedWord := by
  intro s t w w' rest rest' hb h
  change step (withHost (.issue w :: rest) s) = .next t at h
  obtain ⟨rest, hh, -⟩ | ⟨-, ⟨i, -, hi, hm⟩ | ⟨_, _, _, hb', -⟩ | ⟨_, _, _, hb', -⟩ | ⟨hb', -⟩⟩ :=
    step_cases h
  · cases hh
  · rw [beforeMicro_withHost_issue] at hm
    obtain ⟨m, -, -, ⟨-, -, -, hhost⟩, -⟩ := microStep_sequencedFrom hm
    refine ⟨hhost.trans (perform_host m _), ?_⟩
    change step (withHost (.issue w' :: rest') s) = .next (withHost (.issue w' :: rest') t)
    rw [step_engine (s := withHost (.issue w' :: rest') s) (by simp [withHost]) hb hi,
      beforeMicro_withHost_issue]
    exact (microStep_withHost (.issue w' :: rest') hm :)
  all_goals exact absurd (hb'.symm.trans hb) nofun

end Sys2Proof.Machine
end

section
/-! What a move of a command leaves unchanged, in every state (41_i2c_byte_engine.md section 1,
42_sht15_engine.md section 1): field by field, from what the command's micro-program is made of. -/

namespace Sys2Proof.Machine

/-- A move of a command is its acceptance or a micro-operation of its micro-program. -/
theorem exec_cases {i : Instr} {s t : State} (h : exec i s = .next t) :
    t = accept (commandOf i) s ∨
    (s.busy = true ∧ microStep (commandOf i) s = .next t ∧
      ∃ m ∈ (commandOf i).program, SequencedFrom (perform m s) t) := by
  rw [exec_eq] at h
  cases hb : s.busy with
  | false => exact .inl (Host.Outcome.next.inj ((runCommand_idle hb).symm.trans h)).symm
  | true =>
    rw [runCommand_busy hb] at h
    obtain ⟨m, hm, hseq⟩ := microStep_sequencedFrom h
    exact .inr ⟨rfl, h, m, List.mem_of_getElem? hm, hseq⟩

section
variable {i : Instr} {s t : State} (h : exec i s = .next t)
include h

theorem exec_sdaDir (hi : ∀ d, .setDir d ∉ (commandOf i).program) : t.sdaDir = s.sdaDir := by
  obtain rfl | ⟨-, -, m, hm, ⟨-, -, hdir, -⟩, -⟩ := exec_cases h
  · exact accept_sdaDir _ s
  · exact hdir.trans (perform_sdaDir fun d e => hi d (e ▸ hm))

theorem exec_odEn (hi : .setOd ∉ (commandOf i).program) : t.odEn = s.odEn := by
  obtain rfl | ⟨-, -, m, hm, ⟨-, -, -, hod⟩, -⟩ := exec_cases h
  · exact accept_odEn _ s
  · exact hod.trans (perform_odEn fun e => hi (e ▸ hm))

theorem exec_sameOutside : SameOutside s t := by
  obtain rfl | ⟨-, -, m, -, hseq⟩ := exec_cases h
  · exact accept_sameOutside _ s
  · simpa [SameOutside] using hseq.outside

/-- Only the byte commands write TXSR. -/
theorem exec_txsr (hw : ∀ b, i ≠ .i2cWrite b) (hc : ∀ b, i ≠ .shtCmd b) : t.txsr = s.txsr := by
  obtain rfl | ⟨-, -, m, hm, hseq⟩ := exec_cases h
  · rw [accept_txsr]
    cases i with
    | i2cWrite b => exact absurd rfl (hw b)
    | shtCmd b => exact absurd rfl (hc b)
    | _ => rfl
  · refine hseq.txsr.trans (perform_txsr fun d e => ?_)
    obtain ⟨b, rfl⟩ | ⟨b, rfl⟩ := byteCommand_of_txsr_mem (.inr ⟨d, e ▸ hm⟩)
    · exact hw b rfl
    · exact hc b rfl

/-- Only the two reads write ACC. -/
theorem exec_acc (hr : ∀ a, i ≠ .i2cRead a) (hs : i ≠ .shtRead16) : t.acc = s.acc := by
  obtain rfl | ⟨-, -, m, hm, hseq⟩ := exec_cases h
  · rw [accept_acc]
    cases i with
    | i2cRead a => exact absurd rfl (hr a)
    | shtRead16 => exact absurd rfl hs
    | _ => rfl
  · refine hseq.acc.trans (perform_acc fun e => ?_)
    obtain ⟨a, rfl⟩ | rfl := read_of_sampleAcc_mem (e ▸ hm)
    · exact hr a rfl
    · exact hs rfl

/-- Only I2C_WRITE writes its acknowledge. -/
theorem exec_ack (hw : ∀ b, i ≠ .i2cWrite b) : t.ack = s.ack := by
  obtain rfl | ⟨-, -, m, hm, hseq⟩ := exec_cases h
  · exact accept_ack _ s
  · refine hseq.ack.trans (perform_ack fun e => ?_)
    obtain ⟨b, rfl⟩ := i2cWrite_of_sampleAck_mem (e ▸ hm)
    exact hw b rfl

/-- Only SHT_CMD counts samples. -/
theorem exec_spinCnt (hc : ∀ b, i ≠ .shtCmd b) : t.spinCnt = s.spinCnt := by
  have hspin : ∀ k : ℕ, isSpin (commandOf i).program[k]? = false := by
    intro k
    cases hk : (commandOf i).program[k]? with
    | none => rfl
    | some m => exact not_isSpin_of_mem hc (List.mem_of_getElem? hk)
  obtain rfl | ⟨-, hstep, -⟩ := exec_cases h
  · simp [accept, hspin]
  · obtain ⟨m, hm, hgo⟩ := microStep_cases hstep
    have hperf : (perform m s).spinCnt = s.spinCnt := perform_spinCnt (hm ▸ hspin s.upc.toNat)
    obtain ⟨-, -, rfl⟩ | ⟨-, -, rfl⟩ | ⟨r, -, rfl⟩ := hgo
    · rw [enter_spinCnt, hspin, hperf]
      rfl
    · exact hperf
    · exact hperf

/-- A command that takes no sample draws no free value. -/
theorem exec_draws (hi : i = .i2cStart ∨ i = .i2cStop ∨ i = .shtStart) : t.draws = s.draws := by
  obtain rfl | ⟨-, -, m, hm, hseq⟩ := exec_cases h
  · exact accept_draws _ s
  · refine hseq.draws.trans (perform_draws (fun e => ?_) (fun e => ?_) (not_isSpin_of_mem ?_ hm))
    · obtain ⟨a, rfl⟩ | rfl := read_of_sampleAcc_mem (e ▸ hm) <;> simp at hi
    · obtain ⟨b, rfl⟩ := i2cWrite_of_sampleAck_mem (e ▸ hm)
      simp at hi
    · rintro b rfl
      simp at hi

/-- SHT_START has no Wait (R141). -/
theorem exec_dlyCnt (hi : i = .shtStart) : t.dlyCnt = s.dlyCnt := by
  subst hi
  obtain rfl | ⟨-, -, m, hm, hseq⟩ := exec_cases h
  · exact accept_dlyCnt _ s
  · exact hseq.dlyCnt.trans
      (perform_dlyCnt ((by decide : ∀ m ∈ shtStartProgram, microWait m = 0) m hm))

/-- The response and its strobe stay while the command goes on. -/
theorem exec_response (ht : t.busy = true) : SameResponse s t ∧ t.rspValid = s.rspValid := by
  obtain rfl | ⟨-, hstep, -⟩ := exec_cases h
  · exact ⟨accept_sameResponse _ s, accept_rspValid _ s⟩
  · exact microStep_response hstep ht

/-- The command latched stays latched. -/
theorem exec_latched (hb : s.busy = true) : t.curOp = s.curOp ∧ t.curArg = s.curArg := by
  rw [exec_eq, runCommand_busy hb] at h
  obtain ⟨m, -, hseq⟩ := microStep_sequencedFrom h
  exact ⟨hseq.curOp.trans (perform_curOp m s), hseq.curArg.trans (perform_curArg m s)⟩

end

/-- Settles O42: the four I2C commands are none of those that write the field. -/
theorem i2cFrame : Obligations.I2cFrame := by
  intro i s t h hi
  have hdir : ∀ d, .setDir d ∉ (commandOf i).program := by
    intro d hd
    obtain rfl | ⟨b, rfl⟩ | rfl := sht_of_setDir_mem hd <;> simp at hi
  have hcmd : ∀ b, i ≠ .shtCmd b := by
    rintro b rfl
    simp at hi
  have hread : i ≠ .shtRead16 := by
    rintro rfl
    simp at hi
  exact ⟨exec_sdaDir h hdir, exec_sameOutside h, exec_spinCnt h hcmd,
    fun hs => exec_odEn h fun hm => hs (i2cStart_of_setOd_mem hm),
    fun hw => ⟨exec_txsr h hw hcmd, exec_ack h hw⟩, fun hr => exec_acc h hr hread,
    fun hn => exec_draws h (hn.imp_right .inl), exec_response h, exec_latched h⟩

/-- Settles O43: the three SHT15 commands are none of those that write the field. -/
theorem shtFrame : Obligations.ShtFrame := by
  intro i s t h hi
  have hod : .setOd ∉ (commandOf i).program := by
    intro hm
    obtain rfl := i2cStart_of_setOd_mem hm
    simp at hi
  have hwrite : ∀ b, i ≠ .i2cWrite b := by
    rintro b rfl
    simp at hi
  have hread : ∀ a, i ≠ .i2cRead a := by
    rintro a rfl
    simp at hi
  exact ⟨exec_odEn h hod, exec_sameOutside h, exec_ack h hwrite,
    fun hc => ⟨exec_txsr h hwrite hc, exec_spinCnt h hc⟩, fun hr => exec_acc h hread hr,
    fun hs => ⟨exec_draws h (.inr (.inr hs)), exec_dlyCnt h hs⟩, exec_response h, exec_latched h⟩

end Sys2Proof.Machine
end

section
/-! A stretch of micro-operations computed on the registers it can write, given the level each step
would sample: what the stretch leaves and its trace are then evaluated on the micro-program, and the
levels are the peripherals' unless data is driven (20_memory.md R55). -/

namespace Sys2Proof.Machine

/-! ## The registers a micro-operation can write -/

/-- The pin latches, the two shift registers and I2C_WRITE's acknowledge. -/
structure Regs where
  scl : Level
  sda : Level
  dir : Dir
  od  : Bool
  tx  : Byte
  acc : Word
  ack : Bool

def regsOf (s : State) : Regs where
  scl := s.sclLat
  sda := s.sdaLat
  dir := s.sdaDir
  od := s.odEn
  tx := s.txsr
  acc := s.acc
  ack := s.ack

/-- What a micro-operation makes of them, if a sample taken now returns `v`. -/
def Regs.after (r : Regs) (m : MicroOp) (v : Level) : Regs :=
  match m with
  | .setScl l => { r with scl := l }
  | .setSda (.const l) => { r with sda := l }
  | .setSda .txMsb => { r with sda := r.tx.getLsbD 7 }
  | .setDir d => { r with dir := d }
  | .setOd => { r with od := true }
  | .wait _ => r
  | .waitShift _ => { r with tx := shiftTx r.tx }
  | .sampleAcc => { r with acc := accumulate r.acc v }
  | .sampleAck => { r with ack := ackOf v }
  | .spinWhile _ => r

/-- The trace symbol a micro-operation leaves, if a sample taken now returns `v`. -/
def Regs.symbol (r : Regs) (m : MicroOp) (v : Level) : TraceOp :=
  match m with
  | .setScl l => .scl l
  | .setSda (.const l) => .sda l
  | .setSda .txMsb => .sda (r.tx.getLsbD 7)
  | .setDir d => .dir d
  | .setOd => .od
  | .wait d => .wait d
  | .waitShift d => .wait d
  | .sampleAcc => .sample v
  | .sampleAck => .sample v
  | .spinWhile _ => .sample v

/-- What they contribute to the data wire (R51). -/
def Regs.drive (r : Regs) : Drive :=
  match r.dir with
  | .inp => .released
  | .out => driveOf r.od r.sda

theorem sdaWire_eq_resolve (s : State) : sdaWire s = resolve (regsOf s).drive s.pSda := rfl

theorem regsOf_perform (m : MicroOp) (s : State) :
    regsOf (perform m s) = (regsOf s).after m (sampledLevel s) := by
  cases m with
  | setSda src => cases src <;> rfl
  | sampleAcc => simp [perform, regsOf, Regs.after]
  | sampleAck => simp [perform, regsOf, Regs.after]
  | spinWhile v => simp [perform, regsOf, Regs.after]
  | _ => rfl

theorem regsOf_beforeMicro (s : State) : regsOf (beforeMicro s) = regsOf s := by
  simp [regsOf]

theorem regsOf_plain (s : State) (m : MicroOp) :
    regsOf (plain s m) = (regsOf s).after m (sampledLevel (beforeMicro s)) := by
  rw [plain, regsOf_perform, regsOf_beforeMicro]

theorem traceOf_eq_symbol (m : MicroOp) (s : State) :
    traceOf m s = (regsOf s).symbol m (sampledLevel s) := by
  cases m with
  | setSda src => cases src <;> rfl
  | _ => rfl

/-! ## A stretch -/

/-- The level a sample returns in step `k` of a stretch, whether one is taken there or not. -/
def levelsIn (s : State) (ms : List MicroOp) (k : ℕ) : Level :=
  sampledLevel (beforeMicro (plainRun s (ms.take k)))

/-- The registers after a stretch in whose step `k` a sample returns `f k`. -/
def Regs.run (r : Regs) (ms : List MicroOp) (f : ℕ → Level) : Regs :=
  match ms with
  | [] => r
  | m :: ms => (r.after m (f 0)).run ms fun k => f (k + 1)

/-- The trace of such a stretch. -/
def Regs.trace (r : Regs) (ms : List MicroOp) (f : ℕ → Level) : List TraceOp :=
  match ms with
  | [] => []
  | m :: ms => r.symbol m (f 0) :: (r.after m (f 0)).trace ms fun k => f (k + 1)

theorem regsOf_plainRun (s : State) (ms : List MicroOp) :
    regsOf (plainRun s ms) = (regsOf s).run ms (levelsIn s ms) := by
  induction ms generalizing s with
  | nil => rfl
  | cons m ms ih =>
    rw [plainRun_cons, ih, regsOf_plain]
    rfl

/-- Data keeps its direction but for a `SetDir`, both lines their mode but for a `SetOD`. -/
theorem Regs.run_dir {ms : List MicroOp} (h : ∀ d, .setDir d ∉ ms) (r : Regs) (f : ℕ → Level) :
    (r.run ms f).dir = r.dir := by
  induction ms generalizing r f with
  | nil => rfl
  | cons m ms ih =>
    refine (ih (fun d hd => h d (List.mem_cons_of_mem m hd)) _ _).trans ?_
    cases m with
    | setDir d => exact absurd List.mem_cons_self (h d)
    | setSda src => cases src <;> rfl
    | _ => rfl

theorem Regs.run_od {ms : List MicroOp} (h : .setOd ∉ ms) (r : Regs) (f : ℕ → Level) :
    (r.run ms f).od = r.od := by
  induction ms generalizing r f with
  | nil => rfl
  | cons m ms ih =>
    refine (ih (fun hd => h (List.mem_cons_of_mem m hd)) _ _).trans ?_
    cases m with
    | setOd => exact absurd List.mem_cons_self h
    | setSda src => cases src <;> rfl
    | _ => rfl

theorem stretchTrace_eq_trace (s : State) (ms : List MicroOp) :
    stretchTrace s ms = (regsOf s).trace ms (levelsIn s ms) := by
  induction ms generalizing s with
  | nil => rfl
  | cons m ms ih =>
    rw [stretchTrace_cons, ih, traceOf_eq_symbol, regsOf_beforeMicro, regsOf_plain]
    rfl

/-! ## The sampled levels -/

/-- A wire the engine does not pull low and does not push high against a pull is the peripherals'. -/
theorem resolve_eq_pullLevel {d : Drive} {p : Pull} (hlow : d ≠ .low) (hhigh : ¬(d = .high ∧ p = .low)) :
    resolve d p = .level (pullLevel p) := by
  cases d with
  | low => exact absurd rfl hlow
  | high =>
    cases p with
    | low => exact absurd ⟨rfl, rfl⟩ hhigh
    | released => rfl
  | released => cases p <;> rfl

/-- The registers before step `k` of a stretch. -/
def regsBefore (s : State) (ms : List MicroOp) (k : ℕ) : Regs :=
  (regsOf s).run (ms.take k) (levelsIn s (ms.take k))

/-- A sample in step `k` returns the peripherals' level, unless the engine drives data then. -/
theorem levelsIn_eq_pullLevel {s : State} {ms : List MicroOp} {k : ℕ} (hk : k ≤ ms.length)
    (hlow : (regsBefore s ms k).drive ≠ .low)
    (hhigh : ¬((regsBefore s ms k).drive = .high ∧ pullAt s.pSda s.env k = .low)) :
    levelsIn s ms k = pullLevel (pullAt s.pSda s.env k) := by
  have hpull : (beforeMicro (plainRun s (ms.take k))).pSda = pullAt s.pSda s.env k := by
    rw [beforeMicro_pSda, pullAt_plainRun, List.length_take_of_le hk, Nat.add_zero]
  refine sampledLevel_of_level ?_
  rw [sdaWire_eq_resolve, regsOf_beforeMicro, regsOf_plainRun, hpull]
  exact resolve_eq_pullLevel hlow hhigh

/-! ## The levels an accepted command samples -/

theorem pullAt_accept (c : Command) (s : State) (k : ℕ) :
    pullAt (accept c s).pSda (accept c s).env k = pullAt s.pSda s.env k := by
  rw [accept_pSda, accept_env]

/-- With data an input a sample is the peripherals' level, whatever the latch. -/
theorem levelsIn_accept_of_inp {c : Command} {s : State} {ms : List MicroOp} {k : ℕ}
    (hk : k ≤ ms.length) (hinp : (regsBefore (accept c s) ms k).dir = .inp) :
    levelsIn (accept c s) ms k = pullLevel (pullAt s.pSda s.env k) := by
  have hdrive : (regsBefore (accept c s) ms k).drive = .released := by rw [Regs.drive, hinp]
  rw [← pullAt_accept c]
  exact levelsIn_eq_pullLevel hk (by simp [hdrive]) (by simp [hdrive])

/-- With data's latch high it is, unless data is an output in push-pull mode, against a pull; the
stretch is to change neither its direction nor its mode. -/
theorem levelsIn_accept_of_high {c : Command} {s : State} {ms : List MicroOp} {k : ℕ}
    (hk : k ≤ ms.length) (hsda : (regsBefore (accept c s) ms k).sda = true)
    (hdir : ∀ d, .setDir d ∉ ms) (hod : .setOd ∉ ms)
    (hpush : ¬(PushesHigh s ∧ pullAt s.pSda s.env k = .low)) :
    levelsIn (accept c s) ms k = pullLevel (pullAt s.pSda s.env k) := by
  have hdir' : (regsBefore (accept c s) ms k).dir = s.sdaDir :=
    (Regs.run_dir (fun d hd => hdir d (List.mem_of_mem_take hd)) _ _).trans (accept_sdaDir c s)
  have hod' : (regsBefore (accept c s) ms k).od = s.odEn :=
    (Regs.run_od (fun hd => hod (List.mem_of_mem_take hd)) _ _).trans (accept_odEn c s)
  have hdrive : (regsBefore (accept c s) ms k).drive = driveSda { s with sdaLat := true } := by
    rw [Regs.drive, hsda, hdir', hod']
    rfl
  rw [← pullAt_accept c]
  refine levelsIn_eq_pullLevel hk ?_ ?_
  · rw [hdrive, driveSda_eq, driveOf_eq_by_latch]
    cases s.sdaDir <;> cases s.odEn <;> simp
  · rw [hdrive, driveSda_eq_high_iff, pullAt_accept]
    exact fun ⟨⟨hout, ho, _⟩, hp⟩ => hpush ⟨⟨hout, ho⟩, hp⟩

end Sys2Proof.Machine
end

section
/-! A command's run, from its acceptance to its response (10_state.md R41, R42), and the six commands
without a spin (41_i2c_byte_engine.md, 42_sht15_engine.md R141, R143). -/

namespace Sys2Proof.Machine

/-! ## Runs -/

/-- From `s` the command `i` is accepted in `t`, performs the micro-operations `ms` and answers `r`
in `u`. -/
structure Ran (i : Instr) (s t u : State) (ms : List MicroOp) (r : Response) : Prop where
  accepted  : t = accept (commandOf i) s
  execs     : exec i s = .next t
  runs      : runSteps ms.length t = .next u
  completed : Completed u r
  regs      : regsOf u = regsOf (plainRun t ms)
  events    : Answered s u (stretchEvents t ms) r
  spinLimit : u.spinLimit = s.spinLimit
  noReset   : NoReset u
  pulls     : ∀ k, pullAt u.pSda u.env k = pullAt s.pSda s.env (ms.length + k)

section
variable {i : Instr} {s t u : State} {ms : List MicroOp} {r : Response} (h : Ran i s t u ms r)
include h

/-- The registers of `u`, evaluated. -/
theorem Ran.regs_eq : regsOf u = (regsOf t).run ms (levelsIn t ms) :=
  h.regs.trans (regsOf_plainRun t ms)

/-- The trace of the run, evaluated. -/
theorem Ran.recorded {ops : List TraceOp} (ht : (regsOf t).trace ms (levelsIn t ms) = ops) :
    Recorded s u ops r :=
  ⟨_, h.events, by rw [opsOf_stretchEvents, stretchTrace_eq_trace, ht]⟩

end

/-- A command without a spin runs straight through its micro-program. -/
theorem ran_spinless {i : Instr} {s : State} (hi : ∀ b, i ≠ .shtCmd b) (hb : s.busy = false)
    (hn : NoReset s) :
    ∃ t u, Ran i s t u (commandOf i).program
      (replyOf (commandOf i).reply (plainRun t (commandOf i).program)) := by
  obtain ⟨hexec, hrun⟩ := run_spinless i s hb hn (fun _ => not_isSpin_of_mem hi)
    (List.ne_nil_of_length_pos (program_length_pos i))
  refine ⟨_, _, rfl, hexec, hrun, completed_respond _ _, rfl,
    answered_respond s _ _ _ (accept_log _ s), ?_, ?_, fun k => ?_⟩
  · rw [respond_spinLimit, plainRun_spinLimit, accept_spinLimit]
  · exact ((hn.of_host (accept_host _ s)).plainRun _).of_host rfl
  · rw [respond_pSda, respond_env, pullAt_plainRun, accept_pSda, accept_env]

/-! ## The commands that answer nothing -/

theorem ran_i2cStart {s : State} (hb : s.busy = false) (hn : NoReset s) :
    ∃ t u, Ran .i2cStart s t u i2cStartProgram okResponse :=
  ran_spinless nofun hb hn

theorem ran_i2cStop {s : State} (hb : s.busy = false) (hn : NoReset s) :
    ∃ t u, Ran .i2cStop s t u i2cStopProgram okResponse :=
  ran_spinless nofun hb hn

theorem ran_shtStart {s : State} (hb : s.busy = false) (hn : NoReset s) :
    ∃ t u, Ran .shtStart s t u shtStartProgram okResponse :=
  ran_spinless nofun hb hn

theorem run_i2cStartProgram (r : Regs) (f : ℕ → Level) :
    r.run i2cStartProgram f = { r with scl := false, sda := false, od := true } := rfl

theorem run_i2cStopProgram (r : Regs) (f : ℕ → Level) :
    r.run i2cStopProgram f = { r with scl := true, sda := true } := rfl

theorem run_shtStartProgram (r : Regs) (f : ℕ → Level) :
    r.run shtStartProgram f = { r with scl := false, sda := true, dir := .out } := rfl

/-- Settles O31: the micro-program evaluated on the registers. -/
theorem i2cStartRuns : Obligations.I2cStartRuns := by
  intro s hb hn
  obtain ⟨t, u, h⟩ := ran_i2cStart hb hn
  have hregs := h.regs_eq.trans (run_i2cStartProgram _ _)
  obtain rfl := h.accepted
  exact ⟨_, u, h.execs, h.runs, h.completed, h.recorded rfl, congrArg Regs.scl hregs,
    congrArg Regs.sda hregs, congrArg Regs.od hregs, congrArg Regs.dir hregs,
    congrArg Regs.tx hregs, congrArg Regs.acc hregs, h.spinLimit⟩

/-- Settles O34: the micro-program evaluated on the registers. -/
theorem i2cStopRuns : Obligations.I2cStopRuns := by
  intro s hb hn
  obtain ⟨t, u, h⟩ := ran_i2cStop hb hn
  have hregs := h.regs_eq.trans (run_i2cStopProgram _ _)
  obtain rfl := h.accepted
  exact ⟨_, u, h.execs, h.runs, h.completed, h.recorded rfl, congrArg Regs.scl hregs,
    congrArg Regs.sda hregs, congrArg Regs.dir hregs, congrArg Regs.od hregs,
    congrArg Regs.tx hregs, congrArg Regs.acc hregs, h.spinLimit⟩

/-- Settles O35: the micro-program evaluated on the registers. -/
theorem shtStartRuns : Obligations.ShtStartRuns := by
  intro s hb hn
  obtain ⟨t, u, h⟩ := ran_shtStart hb hn
  have hregs := h.regs_eq.trans (run_shtStartProgram _ _)
  obtain rfl := h.accepted
  exact ⟨_, u, h.execs, h.runs, h.completed, h.recorded rfl, congrArg Regs.scl hregs,
    congrArg Regs.sda hregs, congrArg Regs.dir hregs, congrArg Regs.od hregs,
    congrArg Regs.tx hregs, congrArg Regs.acc hregs, h.spinLimit⟩

/-! ## I2C_WRITE -/

/-- One data slot of a write that sends the bit `v` (R121). -/
def writeSlotTrace (v : Level) : List TraceOp :=
  [.sda v, .wait .us2, .scl true, .wait .us5, .scl false, .wait .us2]

theorem writeTrace_eq (byte : Byte) (v : Level) :
    writeTrace byte v =
      ((List.range 8).flatMap fun k => writeSlotTrace (byte.getLsbD (7 - k))) ++
        [.sda true, .wait .us2, .scl true, .wait .us5, .sample v, .scl false, .wait .us10] := rfl

/-- The eight data slots send the byte's bits, most significant first (R107, R121). -/
theorem trace_i2cWriteProgram (r : Regs) (f : ℕ → Level) :
    r.trace i2cWriteProgram f = writeTrace r.tx (f 52) := by
  have hbits : (List.range 8).flatMap (fun k => writeSlotTrace ((shiftTx^[k] r.tx).getLsbD 7)) =
      (List.range 8).flatMap fun k => writeSlotTrace (r.tx.getLsbD (7 - k)) :=
    List.flatMap_congr fun k hk => by
      rw [getLsbD_iterate_shiftTx r.tx (List.mem_range.mp hk)]
  rw [writeTrace_eq, ← hbits]
  rfl

theorem run_i2cWriteProgram (r : Regs) (f : ℕ → Level) :
    r.run i2cWriteProgram f = { r with scl := false, sda := true, tx := 0, ack := !f 52 } := by
  rw [← iterate_shiftTx_eight r.tx]
  rfl

theorem replyOf_ack (s : State) :
    replyOf .ack s = { data := 0, ack := (regsOf s).ack, err := .ok } := rfl

/-- The acknowledge answered is the inverted level of step 52, the ninth slot's sample. -/
theorem ran_i2cWrite (byte : Byte) {s : State} (hb : s.busy = false) (hn : NoReset s) :
    ∃ t u, Ran (.i2cWrite byte) s t u i2cWriteProgram
      { data := 0, ack := !levelsIn t i2cWriteProgram 52, err := .ok } := by
  obtain ⟨t, u, h⟩ := ran_spinless (i := .i2cWrite byte) nofun hb hn
  have hreply : replyOf (commandOf (.i2cWrite byte)).reply (plainRun t i2cWriteProgram) =
      { data := 0, ack := !levelsIn t i2cWriteProgram 52, err := .ok } :=
    (replyOf_ack _).trans (by rw [regsOf_plainRun, run_i2cWriteProgram])
  exact ⟨t, u, hreply ▸ h⟩

/-- In the ninth slot data's latch is high. -/
theorem levelsIn_i2cWriteProgram {c : Command} {s : State}
    (hpush : ¬(PushesHigh s ∧ pullAt s.pSda s.env 52 = .low)) :
    levelsIn (accept c s) i2cWriteProgram 52 = pullLevel (pullAt s.pSda s.env 52) :=
  levelsIn_accept_of_high (by decide) rfl
    (fun _ hd => by simpa using sht_of_setDir_mem (i := .i2cWrite 0) hd)
    (fun hd => by simpa using i2cStart_of_setOd_mem (i := .i2cWrite 0) hd) hpush

/-- Settles O32: the level of the ninth slot is the one step 52 samples. -/
theorem i2cWriteRuns : Obligations.I2cWriteRuns := by
  intro byte s hb hn
  obtain ⟨t, u, h⟩ := ran_i2cWrite byte hb hn
  have hregs := h.regs_eq.trans (run_i2cWriteProgram _ _)
  obtain rfl := h.accepted
  exact ⟨_, u, _, h.execs, h.runs, h.completed, h.recorded (trace_i2cWriteProgram _ _),
    levelsIn_i2cWriteProgram, congrArg Regs.scl hregs, congrArg Regs.sda hregs,
    congrArg Regs.dir hregs, congrArg Regs.od hregs, congrArg Regs.tx hregs,
    congrArg Regs.acc hregs, h.spinLimit⟩

/-! ## Accumulated samples -/

theorem getLsbD_accumulate (a : Word) (v : Level) (j : ℕ) :
    (accumulate a v).getLsbD j = if j = 0 then v else decide (j < 16) && a.getLsbD (j - 1) := by
  rw [accumulate]
  cases j with
  | zero => cases v <;> simp [levelWord]
  | succ j => cases v <;> simp [levelWord]

/-- From 0, up to sixteen samples stand in the low bits, the last one in bit 0 (R108). -/
theorem getLsbD_foldl_accumulate (vs : List Level) (h : vs.length ≤ 16) (j : ℕ) :
    (vs.foldl accumulate 0).getLsbD j = vs.reverse.getD j false := by
  induction vs using List.reverseRecOn generalizing j with
  | nil => simp
  | append_singleton vs v ih =>
    rw [List.length_append, List.length_singleton] at h
    rw [List.foldl_append, List.foldl_cons, List.foldl_nil, getLsbD_accumulate,
      List.reverse_append, List.reverse_singleton, List.singleton_append]
    cases j with
    | zero => rfl
    | succ j =>
      rw [if_neg (Nat.succ_ne_zero j), Nat.add_sub_cancel, ih (by omega), List.getD_cons_succ]
      by_cases hj : j + 1 < 16
      · simp [hj]
      · have : vs.length ≤ j := by omega
        simp [hj, this]

/-! ## I2C_READ -/

theorem replyOf_accLow (s : State) :
    replyOf .accLow s =
      { data := ((regsOf s).acc.extractLsb' 0 8).setWidth 16, ack := false, err := .ok } := rfl

/-- The levels I2C_READ samples, one in step 5 of each of its eight slots (R122). -/
def i2cReadLevels (f : ℕ → Level) : List Level := (List.range 8).map fun j => f (6 * j + 5)

theorem length_i2cReadLevels (f : ℕ → Level) : (i2cReadLevels f).length = 8 := rfl

theorem run_i2cReadProgram (a : Bool) (r : Regs) (f : ℕ → Level) :
    r.run (i2cReadProgram a) f =
      { r with scl := false, sda := true, acc := (i2cReadLevels f).foldl accumulate r.acc } := rfl

theorem trace_i2cReadProgram (a : Bool) (r : Regs) (f : ℕ → Level) :
    r.trace (i2cReadProgram a) f = readTrace a (i2cReadLevels f) := rfl

/-- Eight samples fit in the low byte. -/
theorem lowByte_foldl_accumulate {vs : List Level} (h : vs.length = 8) :
    ((vs.foldl accumulate 0).extractLsb' 0 8).setWidth 16 = vs.foldl accumulate 0 := by
  refine BitVec.eq_of_getLsbD_eq fun j hj => ?_
  rw [BitVec.getLsbD_setWidth, BitVec.getLsbD_extractLsb']
  by_cases h8 : j < 8
  · simp [hj, h8]
  · rw [getLsbD_foldl_accumulate vs (by omega) j]
    simp [h, h8]

/-- The eight levels sampled are answered as they were accumulated. -/
theorem ran_i2cRead (a : Bool) {s : State} (hb : s.busy = false) (hn : NoReset s) :
    ∃ t u, Ran (.i2cRead a) s t u (i2cReadProgram a)
      { data := (i2cReadLevels (levelsIn t (i2cReadProgram a))).foldl accumulate 0, ack := false,
        err := .ok } := by
  obtain ⟨t, u, h⟩ := ran_spinless (i := .i2cRead a) nofun hb hn
  have hacc : (regsOf t).acc = 0 := by rw [h.accepted]; rfl
  have hreply : replyOf (commandOf (.i2cRead a)).reply (plainRun t (i2cReadProgram a)) =
      { data := (i2cReadLevels (levelsIn t (i2cReadProgram a))).foldl accumulate 0, ack := false,
        err := .ok } :=
    (replyOf_accLow _).trans (by
      rw [regsOf_plainRun, run_i2cReadProgram, hacc, lowByte_foldl_accumulate rfl])
  exact ⟨t, u, hreply ▸ h⟩

/-- In every slot data's latch is high. -/
theorem levelsIn_i2cReadProgram {a : Bool} {c : Command} {s : State} {j : ℕ} (hj : j < 8)
    (hpush : ¬(PushesHigh s ∧ pullAt s.pSda s.env (6 * j + 5) = .low)) :
    levelsIn (accept c s) (i2cReadProgram a) (6 * j + 5) =
      pullLevel (pullAt s.pSda s.env (6 * j + 5)) := by
  have hlen : (i2cReadProgram a).length = 58 := rfl
  refine levelsIn_accept_of_high (by omega) ?_
    (fun _ hd => by simpa using sht_of_setDir_mem (i := .i2cRead a) hd)
    (fun hd => by simpa using i2cStart_of_setOd_mem (i := .i2cRead a) hd) hpush
  interval_cases j <;> rfl

/-- Sample `j` of eight is answered in bit `7 - j`. -/
theorem getLsbD_i2cReadLevels (f : ℕ → Level) {j : ℕ} (hj : j < 8) :
    ((i2cReadLevels f).foldl accumulate 0).getLsbD (7 - j) = f (6 * j + 5) := by
  rw [getLsbD_foldl_accumulate _ (by rw [length_i2cReadLevels]; decide)]
  interval_cases j <;> rfl

theorem getD_i2cReadLevels (f : ℕ → Level) {j : ℕ} (hj : j < 8) :
    (i2cReadLevels f).getD j false = f (6 * j + 5) := by
  interval_cases j <;> rfl

/-- Settles O33: the samples are those of step 5 of each slot, answered as they were accumulated. -/
theorem i2cReadRuns : Obligations.I2cReadRuns := by
  intro a s hb hn
  obtain ⟨t, u, h⟩ := ran_i2cRead a hb hn
  have hregs := h.regs_eq.trans (run_i2cReadProgram a _ _)
  obtain rfl := h.accepted
  refine ⟨_, u, _, _, h.execs, h.runs, h.completed, h.recorded (trace_i2cReadProgram a _ _), rfl, rfl,
    rfl, fun j hj => ?_, fun j hj => ?_, fun j hj hpush => ?_, congrArg Regs.scl hregs,
    congrArg Regs.sda hregs, congrArg Regs.dir hregs, congrArg Regs.od hregs,
    congrArg Regs.acc hregs, congrArg Regs.tx hregs, h.spinLimit⟩
  · rw [getLsbD_i2cReadLevels _ hj, getD_i2cReadLevels _ hj]
  · rw [getLsbD_foldl_accumulate _ (by rw [length_i2cReadLevels]; decide)]
    simp [length_i2cReadLevels, hj]
  · rw [getD_i2cReadLevels _ hj, levelsIn_i2cReadProgram hj hpush]

/-! ## SHT_READ16 -/

theorem replyOf_accFull (s : State) :
    replyOf .accFull s = { data := (regsOf s).acc, ack := false, err := .ok } := rfl

/-- The levels SHT_READ16 samples before its acknowledge pulse and after it (R143). -/
def shtReadFirst (f : ℕ → Level) : List Level := (List.range 8).map fun j => f (5 * j + 4)
def shtReadSecond (f : ℕ → Level) : List Level := (List.range 8).map fun j => f (5 * j + 51)

theorem length_shtReadLevels (f : ℕ → Level) : (shtReadFirst f ++ shtReadSecond f).length = 16 := rfl

theorem run_shtRead16Program (r : Regs) (f : ℕ → Level) :
    r.run shtRead16Program f =
      { r with
        scl := false, sda := false, dir := .inp,
        acc := (shtReadFirst f ++ shtReadSecond f).foldl accumulate r.acc } := rfl

theorem trace_shtRead16Program (r : Regs) (f : ℕ → Level) :
    r.trace shtRead16Program f = shtReadTrace (shtReadFirst f) (shtReadSecond f) := rfl

theorem ran_shtRead16 {s : State} (hb : s.busy = false) (hn : NoReset s) :
    ∃ t u, Ran .shtRead16 s t u shtRead16Program
      { data := (shtReadFirst (levelsIn t shtRead16Program) ++
          shtReadSecond (levelsIn t shtRead16Program)).foldl accumulate 0,
        ack := false, err := .ok } := by
  obtain ⟨t, u, h⟩ := ran_spinless (i := .shtRead16) nofun hb hn
  have hacc : (regsOf t).acc = 0 := by rw [h.accepted]; rfl
  have hreply : replyOf (commandOf .shtRead16).reply (plainRun t shtRead16Program) =
      { data := (shtReadFirst (levelsIn t shtRead16Program) ++
          shtReadSecond (levelsIn t shtRead16Program)).foldl accumulate 0,
        ack := false, err := .ok } :=
    (replyOf_accFull _).trans (by rw [regsOf_plainRun, run_shtRead16Program, hacc])
  exact ⟨t, u, hreply ▸ h⟩

/-- Every sample is taken with data an input. -/
theorem levelsIn_shtRead16Program {c : Command} {s : State} {j : ℕ} (hj : j < 8) :
    levelsIn (accept c s) shtRead16Program (5 * j + 4) =
      pullLevel (pullAt s.pSda s.env (5 * j + 4)) ∧
    levelsIn (accept c s) shtRead16Program (5 * j + 51) =
      pullLevel (pullAt s.pSda s.env (5 * j + 51)) := by
  have hlen : shtRead16Program.length = 88 := rfl
  constructor <;> refine levelsIn_accept_of_inp (by omega) ?_ <;> interval_cases j <;> rfl

/-- Sample `j` of sixteen is answered in bit `15 - j`. -/
theorem getLsbD_shtReadLevels (f : ℕ → Level) {j : ℕ} (hj : j < 8) :
    ((shtReadFirst f ++ shtReadSecond f).foldl accumulate 0).getLsbD (15 - j) = f (5 * j + 4) ∧
    ((shtReadFirst f ++ shtReadSecond f).foldl accumulate 0).getLsbD (7 - j) = f (5 * j + 51) := by
  have hlen := (length_shtReadLevels f).le
  rw [getLsbD_foldl_accumulate _ hlen, getLsbD_foldl_accumulate _ hlen]
  interval_cases j <;> exact ⟨rfl, rfl⟩

theorem getD_shtReadLevels (f : ℕ → Level) {j : ℕ} (hj : j < 8) :
    (shtReadFirst f).getD j false = f (5 * j + 4) ∧
    (shtReadSecond f).getD j false = f (5 * j + 51) := by
  interval_cases j <;> exact ⟨rfl, rfl⟩

/-- Settles O37: the sixteen samples, answered as they were accumulated. -/
theorem shtRead16Runs : Obligations.ShtRead16Runs := by
  intro s hb hn
  obtain ⟨t, u, h⟩ := ran_shtRead16 hb hn
  have hregs := h.regs_eq.trans (run_shtRead16Program _ _)
  obtain rfl := h.accepted
  refine ⟨_, u, _, _, _, h.execs, h.runs, h.completed, h.recorded (trace_shtRead16Program _ _), rfl,
    rfl, rfl, rfl, fun j hj => ?_, fun j hj => ?_, congrArg Regs.scl hregs, congrArg Regs.sda hregs,
    congrArg Regs.dir hregs, congrArg Regs.od hregs, congrArg Regs.acc hregs, congrArg Regs.tx hregs,
    h.spinLimit⟩
  · rw [(getD_shtReadLevels _ hj).1, (getLsbD_shtReadLevels _ hj).1, (levelsIn_shtRead16Program hj).1]
    exact ⟨rfl, rfl⟩
  · rw [(getD_shtReadLevels _ hj).2, (getLsbD_shtReadLevels _ hj).2, (levelsIn_shtRead16Program hj).2]
    exact ⟨rfl, rfl⟩

end Sys2Proof.Machine
end

section
/-! SHT_CMD (42_sht15_engine.md R142): its eight bits, and its three spins as many samples long as the
device makes them; the timeout of R162 and the hang of R164. -/

namespace Sys2Proof.Machine

/-! ## A state but for where the sequencer is -/

/-- UPC and SPIN_CNT moved by hand: no micro-operation writes or reads anything else because of them. -/
def reseq (k : BitVec 7) (n : ℕ) (s : State) : State := { s with upc := k, spinCnt := n }

theorem tick_reseq (k : BitVec 7) (n : ℕ) (s : State) : tick (reseq k n s) = reseq k n (tick s) := by
  unfold tick envMove
  rw [show (reseq k n s).env = s.env from rfl]
  split <;> rfl

theorem hostWait_reseq (k : BitVec 7) (n : ℕ) (s : State) :
    hostWait (reseq k n s) = reseq k n (hostWait s) := by
  unfold hostWait
  rw [show (reseq k n s).host = s.host from rfl]
  split <;> rfl

theorem countDraw_reseq (k : BitVec 7) (n : ℕ) (s : State) :
    countDraw (reseq k n s) = reseq k n (countDraw s) := by
  unfold countDraw
  rw [show sdaWire (reseq k n s) = sdaWire s from rfl]
  split <;> rfl

theorem perform_reseq (m : MicroOp) (k : BitVec 7) (n : ℕ) (s : State) :
    ∃ n', perform m (reseq k n s) = reseq k n' (perform m s) := by
  cases m with
  | sampleAcc =>
    exact ⟨n, congrArg (record (.sample (sampledLevel s)))
      (countDraw_reseq k n { s with acc := accumulate s.acc (sampledLevel s) })⟩
  | sampleAck =>
    exact ⟨n, congrArg (record (.sample (sampledLevel s)))
      (countDraw_reseq k n { s with ack := ackOf (sampledLevel s) })⟩
  | spinWhile v =>
    exact ⟨n + 1, congrArg (record (.sample (sampledLevel s)))
      (countDraw_reseq k (n + 1) { s with spinCnt := s.spinCnt + 1 })⟩
  | _ => exact ⟨n, rfl⟩

theorem plainRun_reseq (k : BitVec 7) (n : ℕ) (s : State) (ms : List MicroOp) :
    ∃ n', plainRun (reseq k n s) ms = reseq k n' (plainRun s ms) := by
  induction ms generalizing n s with
  | nil => exact ⟨n, rfl⟩
  | cons m ms ih =>
    obtain ⟨n', hn'⟩ := perform_reseq m k n (beforeMicro s)
    obtain ⟨n'', hn''⟩ := ih n' (plain s m)
    refine ⟨n'', ?_⟩
    have hplain : plain (reseq k n s) m = reseq k n' (plain s m) := by
      rw [plain, beforeMicro, tick_reseq, hostWait_reseq]
      exact hn'
    rw [plainRun_cons, plainRun_cons, hplain, hn'']

/-! ## Where a command in progress stands -/

/-- From its acceptance in `t` the command `i` has performed `ms` and stands at entry `k`, in the state
`x`, with SPIN_CNT cleared if a spin begins there. -/
structure Reached (i : Instr) (t : State) (ms : List MicroOp) (k : ℕ) (x : State) : Prop where
  runs    : runSteps ms.length t = .next x
  noReset : NoReset x
  busy    : x.busy = true
  current : currentInstr x = some i
  upc     : x.upc.toNat = k
  spinCnt : isSpin (commandOf i).program[k]? = true → x.spinCnt = 0
  same    : ∃ k' n', x = reseq k' n' (plainRun t ms)

theorem reached_start (i : Instr) {s : State} (hn : NoReset s) :
    Reached i (accept (commandOf i) s) [] 0 (accept (commandOf i) s) where
  runs := rfl
  noReset := hn.of_host (accept_host _ s)
  busy := accept_busy _ s
  current := currentInstr_accept i s
  upc := by rw [accept_upc]; rfl
  spinCnt h := if_pos h
  same := ⟨_, _, rfl⟩

/-- A run that ends by entering `k` has reached `k`. -/
theorem reached_enter {i : Instr} {t x : State} {ms ms' : List MicroOp} {k k' : ℕ}
    (h : Reached i t ms k x) (hk : k' < (commandOf i).program.length)
    (hruns : runSteps ms'.length x =
      .next (enter (commandOf i) (BitVec.ofNat 7 k') (plainRun x ms'))) :
    Reached i t (ms ++ ms') k' (enter (commandOf i) (BitVec.ofNat 7 k') (plainRun x ms')) := by
  have hto : (BitVec.ofNat 7 k').toNat = k' := by
    have := program_length_le i
    exact Nat.mod_eq_of_lt (by omega)
  refine ⟨?_, (h.noReset.plainRun ms').of_host rfl, (plainRun_busy x ms').trans h.busy,
    (currentInstr_congr rfl rfl).trans ((currentInstr_plainRun x ms').trans h.current), hto, ?_, ?_⟩
  · rw [List.length_append, runSteps_add h.runs, hruns]
  · intro hspin
    rw [enter_spinCnt, hto, if_pos hspin]
  · obtain ⟨k0, n0, hx⟩ := h.same
    obtain ⟨n1, hn1⟩ := plainRun_reseq k0 n0 (plainRun t ms) ms'
    rw [hx, hn1, plainRun_append]
    exact ⟨_, _, rfl⟩

/-- A stretch without a spin. -/
theorem Reached.stretch {i : Instr} {t x : State} {ms : List MicroOp} {k : ℕ} (h : Reached i t ms k x)
    (pre seg post : List MicroOp) (hp : (commandOf i).program = pre ++ seg ++ post)
    (hk : k = pre.length) (hseg : seg ≠ []) (hpost : post ≠ [])
    (hs : ∀ m ∈ seg, isSpin (some m) = false) :
    ∃ x', Reached i t (ms ++ seg) (k + seg.length) x' := by
  have hruns := run_stretch i pre seg post x h.noReset h.busy h.current hp (h.upc.trans hk) hseg hpost
    hs
  rw [← hk] at hruns
  refine ⟨_, reached_enter h ?_ hruns⟩
  have := List.length_pos_iff.mpr hpost
  rw [hp, List.length_append, List.length_append]
  omega

/-- The pulls at the coming steps of a command that has performed `ms`. -/
theorem Reached.pullAt {i : Instr} {t x : State} {ms : List MicroOp} {k : ℕ} (h : Reached i t ms k x)
    (j : ℕ) : pullAt x.pSda x.env j = Machine.pullAt t.pSda t.env (ms.length + j) := by
  obtain ⟨k', n', rfl⟩ := h.same
  exact pullAt_plainRun t ms j

theorem Reached.sdaDir {i : Instr} {t x : State} {ms : List MicroOp} {k : ℕ} (h : Reached i t ms k x) :
    x.sdaDir = (plainRun t ms).sdaDir := by
  obtain ⟨k', n', rfl⟩ := h.same
  rfl

theorem Reached.spinLimit {i : Instr} {t x : State} {ms : List MicroOp} {k : ℕ}
    (h : Reached i t ms k x) : x.spinLimit = t.spinLimit := by
  obtain ⟨k', n', rfl⟩ := h.same
  exact plainRun_spinLimit t ms

/-- The device lets a spin that waits on `v` and takes its first sample in step `k` end with its sample
`n`, the first being sample 0. -/
def SpinEnds (t : State) (v : Level) (k n : ℕ) : Prop :=
  (∀ j, j < n → pullLevel (pullAt t.pSda t.env (k + j)) = v) ∧
    pullLevel (pullAt t.pSda t.env (k + n)) = !v

theorem spinEnds_accept {c : Command} {s : State} {v : Level} {k n : ℕ} :
    SpinEnds (accept c s) v k n ↔ SpinEnds s v k n := by
  simp only [SpinEnds, pullAt_accept]

/-- The samples of such a spin, from where it stands to what its last one leaves. -/
theorem Reached.spin_ends {i : Instr} {t x : State} {ms : List MicroOp} {k n : ℕ} {v : Level}
    (h : Reached i t ms k x) (hm : (commandOf i).program[k]? = some (.spinWhile v))
    (hd : (plainRun t ms).sdaDir = .inp) (hv : SpinEnds t v ms.length n)
    (hlim : ∀ l, t.spinLimit = .samples l → n < l) :
    runSteps (n + 1) x =
      .next (advance (commandOf i) (plainRun x (List.replicate (n + 1) (.spinWhile v)))) := by
  have hcnt := h.spinCnt (by rw [hm]; rfl)
  refine (run_spin i v n x h.noReset h.busy h.current (h.upc ▸ hm) (h.sdaDir.trans hd) ?_ ?_ ?_).1
  · intro j hj
    rw [h.pullAt]
    exact hv.1 j hj
  · rw [h.pullAt]
    exact hv.2
  · intro l hl
    rw [hcnt, Nat.zero_add]
    exact hlim l (h.spinLimit ▸ hl)

/-- A spin that ends, with entries after it. -/
theorem Reached.spin {i : Instr} {t x : State} {ms : List MicroOp} {k n : ℕ} {v : Level}
    (h : Reached i t ms k x) (hm : (commandOf i).program[k]? = some (.spinWhile v))
    (hk : k + 1 < (commandOf i).program.length) (hd : (plainRun t ms).sdaDir = .inp)
    (hv : SpinEnds t v ms.length n) (hlim : ∀ l, t.spinLimit = .samples l → n < l) :
    ∃ x', Reached i t (ms ++ List.replicate (n + 1) (.spinWhile v)) (k + 1) x' := by
  have hruns := h.spin_ends hm hd hv hlim
  have hupc : (plainRun x (List.replicate (n + 1) (.spinWhile v))).upc.toNat = k := by
    rw [plainRun_upc, h.upc]
  refine ⟨_, reached_enter h hk ?_⟩
  rw [List.length_replicate, hruns]
  obtain ⟨-, he⟩ | ⟨hl, -⟩ := advance_cases (commandOf i)
    (plainRun x (List.replicate (n + 1) (.spinWhile v)))
  · rw [he]
    congr 2
    apply BitVec.eq_of_toNat_eq
    rw [toNat_upc_succ (hupc ▸ hk), hupc]
    have := program_length_le i
    exact (Nat.mod_eq_of_lt (by omega)).symm
  · omega

/-- A run that ends by answering `r`. -/
theorem Reached.ran {i : Instr} {s x : State} {ms ms' : List MicroOp} {k : ℕ} {r : Response}
    (h : Reached i (accept (commandOf i) s) ms k x) (hb : s.busy = false)
    (hruns : runSteps ms'.length x = .next (respond r (plainRun x ms'))) :
    ∃ t u, Ran i s t u (ms ++ ms') r := by
  obtain ⟨k0, n0, hx⟩ := h.same
  obtain ⟨n1, hn1⟩ := plainRun_reseq k0 n0 (plainRun (accept (commandOf i) s) ms) ms'
  have hsame : plainRun x ms' = reseq k0 n1 (plainRun (accept (commandOf i) s) (ms ++ ms')) := by
    rw [hx, hn1, plainRun_append]
  refine ⟨_, respond r (plainRun x ms'), rfl, by rw [exec_eq, runCommand_idle hb], ?_,
    completed_respond _ _, ?_, ?_, ?_, (h.noReset.plainRun ms').of_host rfl, fun j => ?_⟩
  · rw [List.length_append, runSteps_add h.runs, hruns]
  · rw [hsame]
    rfl
  · obtain ⟨hlog, hbus⟩ :=
      answered_respond s (accept (commandOf i) s) (ms ++ ms') r (accept_log _ s)
    exact ⟨by rw [hsame]; exact hlog, hbus⟩
  · rw [hsame]
    exact (plainRun_spinLimit _ _).trans (accept_spinLimit _ s)
  · rw [hsame]
    exact (pullAt_plainRun _ _ j).trans (by rw [pullAt_accept])

/-- A spin that ends the micro-program ends the command. -/
theorem Reached.last_spin {i : Instr} {s x : State} {ms : List MicroOp} {k n : ℕ} {v : Level}
    (h : Reached i (accept (commandOf i) s) ms k x) (hb : s.busy = false)
    (hm : (commandOf i).program[k]? = some (.spinWhile v))
    (hk : k + 1 = (commandOf i).program.length) (hr : (commandOf i).reply = .empty)
    (hd : (plainRun (accept (commandOf i) s) ms).sdaDir = .inp) (hv : SpinEnds s v ms.length n)
    (hlim : ∀ l, s.spinLimit = .samples l → n < l) :
    ∃ t u, Ran i s t u (ms ++ List.replicate (n + 1) (.spinWhile v)) okResponse := by
  refine h.ran hb ?_
  have hruns := h.spin_ends hm hd (spinEnds_accept.mpr hv) (by simpa using hlim)
  have hupc : (plainRun x (List.replicate (n + 1) (.spinWhile v))).upc.toNat = k := by
    rw [plainRun_upc, h.upc]
  rw [List.length_replicate, hruns]
  obtain ⟨hl, -⟩ | ⟨-, he⟩ := advance_cases (commandOf i)
    (plainRun x (List.replicate (n + 1) (.spinWhile v)))
  · omega
  · rw [he, hr]
    rfl

/-- A spin whose every sample up to the limit's last one reads the level waited on ends the command
with SPIN_TIMEOUT (R162). -/
theorem Reached.timeout {i : Instr} {s x : State} {ms : List MicroOp} {k n : ℕ} {v : Level}
    (h : Reached i (accept (commandOf i) s) ms k x) (hb : s.busy = false)
    (hm : (commandOf i).program[k]? = some (.spinWhile v))
    (hd : (plainRun (accept (commandOf i) s) ms).sdaDir = .inp)
    (hv : ∀ j, j < n + 1 → pullLevel (Machine.pullAt s.pSda s.env (ms.length + j)) = v)
    (hlim : s.spinLimit = .samples (n + 1)) :
    ∃ t u, Ran i s t u (ms ++ List.replicate (n + 1) (.spinWhile v))
      { data := 0, ack := false, err := .spinTimeout } := by
  refine h.ran hb ?_
  have hcnt := h.spinCnt (by rw [hm]; rfl)
  rw [List.length_replicate]
  refine run_spin_aborts i v n x h.noReset h.busy h.current (h.upc ▸ hm) (h.sdaDir.trans hd) ?_ ?_
  · intro j hj
    rw [h.pullAt, pullAt_accept]
    exact hv j hj
  · rw [h.spinLimit, accept_spinLimit, hlim, hcnt, Nat.zero_add]

/-- A stretch leaves the strobe down. -/
theorem plainRun_rspValid (s : State) (ms : List MicroOp) (h : ms ≠ []) :
    (plainRun s ms).rspValid = false := by
  induction ms generalizing s with
  | nil => exact absurd rfl h
  | cons m ms ih =>
    cases ms with
    | nil => exact plain_rspValid s m
    | cons m' ms => exact ih (plain s m) nofun

/-- A command in progress at entry `k`, having performed `ms` and answered nothing. -/
structure Spinning (t u : State) (ms : List MicroOp) (k : ℕ) : Prop where
  busy     : u.busy = t.busy
  upc      : u.upc = BitVec.ofNat 7 k
  regs     : regsOf u = regsOf (plainRun t ms)
  response : SameResponse t u
  strobe   : ms ≠ [] → u.rspValid = false

/-- A spin without a limit samples on while the level waited on stays (R164). -/
theorem Reached.hangs {i : Instr} {t x : State} {ms : List MicroOp} {k : ℕ} {v : Level}
    (h : Reached i t ms k x) (hm : (commandOf i).program[k]? = some (.spinWhile v))
    (hd : (plainRun t ms).sdaDir = .inp)
    (hv : ∀ j, pullLevel (Machine.pullAt t.pSda t.env (ms.length + j)) = v)
    (hlim : t.spinLimit = .unlimited) (n : ℕ) :
    ∃ u, runSteps (ms.length + n) t = .next u ∧
      Spinning t u (ms ++ List.replicate n (.spinWhile v)) k := by
  have hruns := run_spin_stays i v n x h.noReset h.busy h.current (h.upc ▸ hm) (h.sdaDir.trans hd)
    (fun j _ => by rw [h.pullAt]; exact hv j)
    (fun l hl => by rw [h.spinLimit, hlim] at hl; cases hl)
  obtain ⟨k0, n0, hx⟩ := h.same
  obtain ⟨n1, hn1⟩ := plainRun_reseq k0 n0 (plainRun t ms) (List.replicate n (.spinWhile v))
  have hk0 : k0 = BitVec.ofNat 7 k := by
    rw [← h.upc, hx, BitVec.ofNat_toNat, BitVec.setWidth_eq]
    rfl
  have hu : plainRun x (List.replicate n (.spinWhile v)) =
      reseq (BitVec.ofNat 7 k) n1 (plainRun t (ms ++ List.replicate n (.spinWhile v))) := by
    rw [plainRun_append, ← hk0, ← hn1, ← hx]
  refine ⟨_, (runSteps_add h.runs).trans hruns, ?_⟩
  rw [hu]
  exact ⟨plainRun_busy t _, rfl, rfl,
    ⟨plainRun_result t _, plainRun_ackf t _, plainRun_err t _⟩, plainRun_rspValid t _⟩

/-! ## The registers and the trace of its parts -/

theorem Regs.run_append (r : Regs) (ms ms' : List MicroOp) (f : ℕ → Level) :
    r.run (ms ++ ms') f = (r.run ms f).run ms' fun k => f (ms.length + k) := by
  induction ms generalizing r f with
  | nil => simp [Regs.run]
  | cons m ms ih =>
    rw [List.cons_append, Regs.run, ih]
    simp only [Regs.run, List.length_cons, Nat.add_right_comm]

/-- A spin writes none of the registers. -/
theorem Regs.run_spin (r : Regs) (v : Level) (n : ℕ) (f : ℕ → Level) :
    r.run (List.replicate n (.spinWhile v)) f = r := by
  induction n generalizing f with
  | zero => rfl
  | succ n ih => exact ih _

/-- SHT_CMD's part before its first spin: the eight bits and the release of data (R142). -/
def shtCmdBits : List MicroOp :=
  (List.replicate Config.byteBits shtCmdBit).flatten ++ [.setScl false, .setDir .inp]

theorem shtCmdProgram_eq :
    shtCmdProgram = shtCmdBits ++
      [.spinWhile true, .setScl true, .setScl false, .spinWhile false, .spinWhile true] := rfl

theorem run_shtCmdBits (r : Regs) (f : ℕ → Level) :
    r.run shtCmdBits f =
      { r with scl := false, sda := r.tx.getLsbD 0, dir := .inp, tx := 0 } := by
  have hlast : (shiftTx^[7] r.tx).getLsbD 7 = r.tx.getLsbD 0 :=
    getLsbD_iterate_shiftTx r.tx (by decide)
  rw [← iterate_shiftTx_eight r.tx, ← hlast]
  rfl

/-- One bit slot of SHT_CMD that sends the bit `v`. -/
def shtCmdSlotTrace (v : Level) : List TraceOp :=
  [.scl false, .sda v, .wait .us2, .scl true, .wait .us5]

theorem shtCmdBitsTrace_eq (byte : Byte) :
    shtCmdBitsTrace byte =
      ((List.range 8).flatMap fun k => shtCmdSlotTrace (byte.getLsbD (7 - k))) ++
        [.scl false, .dir .inp] := rfl

theorem trace_shtCmdBits (r : Regs) (f : ℕ → Level) :
    r.trace shtCmdBits f = shtCmdBitsTrace r.tx := by
  have hbits : (List.range 8).flatMap (fun k => shtCmdSlotTrace ((shiftTx^[k] r.tx).getLsbD 7)) =
      (List.range 8).flatMap fun k => shtCmdSlotTrace (r.tx.getLsbD (7 - k)) :=
    List.flatMap_congr fun k hk => by
      rw [getLsbD_iterate_shiftTx r.tx (List.mem_range.mp hk)]
  rw [shtCmdBitsTrace_eq, ← hbits]
  rfl

/-- A spin whose last sample ends it. -/
theorem stretchTrace_spin_ends {t : State} {ms : List MicroOp} {v : Level} {n : ℕ}
    (hd : (plainRun t ms).sdaDir = .inp) (hv : SpinEnds t v ms.length n) :
    stretchTrace (plainRun t ms) (List.replicate (n + 1) (.spinWhile v)) = spinTrace v (n + 1) := by
  have hd' : (plainRun (plainRun t ms) (List.replicate n (.spinWhile v))).sdaDir = .inp := by
    simpa using hd
  have hstay := stretchTrace_spin (plainRun t ms) v n hd fun j hj => by
    rw [pullAt_plainRun]
    exact hv.1 j hj
  rw [List.replicate_succ', stretchTrace_append, hstay, stretchTrace_cons, traceOf,
    sampledLevel_beforeMicro_inp hd', pullAt_plainRun, pullAt_plainRun, List.length_replicate,
    Nat.add_zero, hv.2]
  rfl

/-! ## Its first 42 micro-operations -/

theorem reached_shtCmd_spin (byte : Byte) {s : State} (hn : NoReset s) :
    ∃ x, Reached (.shtCmd byte) (accept (shtCmdCommand byte) s) shtCmdBits 42 x :=
  (reached_start (.shtCmd byte) hn).stretch [] shtCmdBits _ shtCmdProgram_eq rfl (by decide)
    (by decide) (by decide)

/-! ## The whole command -/

/-- SHT_CMD up to the end of its first spin, up to the ninth clock, and up to the end of its second
spin, the spins taking `n1` and `n2` samples. -/
def shtCmdFirst (n1 : ℕ) : List MicroOp := shtCmdBits ++ List.replicate n1 (.spinWhile true)
def shtCmdNinth (n1 : ℕ) : List MicroOp := shtCmdFirst n1 ++ [.setScl true, .setScl false]
def shtCmdSecond (n1 n2 : ℕ) : List MicroOp :=
  shtCmdNinth n1 ++ List.replicate n2 (.spinWhile false)

/-- All of SHT_CMD, its spins taking `n1`, `n2` and `n3` samples. -/
def shtCmdOps (n1 n2 n3 : ℕ) : List MicroOp :=
  shtCmdSecond n1 n2 ++ List.replicate n3 (.spinWhile true)

theorem length_shtCmdFirst (n1 : ℕ) : (shtCmdFirst n1).length = 42 + n1 := by
  simp [shtCmdFirst, show shtCmdBits.length = 42 from rfl]

theorem length_shtCmdNinth (n1 : ℕ) : (shtCmdNinth n1).length = 44 + n1 := by
  simp [shtCmdNinth, length_shtCmdFirst]
  omega

theorem length_shtCmdSecond (n1 n2 : ℕ) : (shtCmdSecond n1 n2).length = 44 + n1 + n2 := by
  simp [shtCmdSecond, length_shtCmdNinth]

theorem length_shtCmdOps (n1 n2 n3 : ℕ) : (shtCmdOps n1 n2 n3).length = 44 + n1 + n2 + n3 := by
  simp [shtCmdOps, length_shtCmdSecond]

/-- Neither the spins nor the ninth clock write the registers, but for the clock, low again. -/
theorem run_shtCmdFirst (n1 : ℕ) (r : Regs) (f : ℕ → Level) :
    r.run (shtCmdFirst n1) f =
      { r with scl := false, sda := r.tx.getLsbD 0, dir := .inp, tx := 0 } := by
  rw [shtCmdFirst, Regs.run_append, run_shtCmdBits, Regs.run_spin]

theorem run_shtCmdNinth (n1 : ℕ) (r : Regs) (f : ℕ → Level) :
    r.run (shtCmdNinth n1) f =
      { r with scl := false, sda := r.tx.getLsbD 0, dir := .inp, tx := 0 } := by
  rw [shtCmdNinth, Regs.run_append, run_shtCmdFirst]
  rfl

theorem run_shtCmdSecond (n1 n2 : ℕ) (r : Regs) (f : ℕ → Level) :
    r.run (shtCmdSecond n1 n2) f =
      { r with scl := false, sda := r.tx.getLsbD 0, dir := .inp, tx := 0 } := by
  rw [shtCmdSecond, Regs.run_append, run_shtCmdNinth, Regs.run_spin]

theorem run_shtCmdOps (n1 n2 n3 : ℕ) (r : Regs) (f : ℕ → Level) :
    r.run (shtCmdOps n1 n2 n3) f =
      { r with scl := false, sda := r.tx.getLsbD 0, dir := .inp, tx := 0 } := by
  rw [shtCmdOps, Regs.run_append, run_shtCmdSecond, Regs.run_spin]

/-- At each of its spins data is an input. -/
theorem sdaDir_shtCmdBits (t : State) : (plainRun t shtCmdBits).sdaDir = .inp :=
  (congrArg Regs.dir ((regsOf_plainRun t shtCmdBits).trans (run_shtCmdBits _ _)) :)

theorem sdaDir_shtCmdNinth (t : State) (n1 : ℕ) : (plainRun t (shtCmdNinth n1)).sdaDir = .inp :=
  (congrArg Regs.dir ((regsOf_plainRun t (shtCmdNinth n1)).trans (run_shtCmdNinth n1 _ _)) :)

theorem sdaDir_shtCmdSecond (t : State) (n1 n2 : ℕ) :
    (plainRun t (shtCmdSecond n1 n2)).sdaDir = .inp :=
  (congrArg Regs.dir ((regsOf_plainRun t (shtCmdSecond n1 n2)).trans (run_shtCmdSecond n1 n2 _ _)) :)

/-- SHT_CMD reaches its second spin when the first one ends. -/
theorem reached_shtCmd_second (byte : Byte) {s : State} {n1 : ℕ} (hn : NoReset s)
    (hv : SpinEnds s true 42 n1) (hlim : ∀ l, s.spinLimit = .samples l → n1 < l) :
    ∃ x, Reached (.shtCmd byte) (accept (shtCmdCommand byte) s) (shtCmdNinth (n1 + 1)) 45 x := by
  obtain ⟨x, h⟩ := reached_shtCmd_spin byte hn
  obtain ⟨x, h⟩ := h.spin rfl (show 42 + 1 < shtCmdProgram.length by decide) (sdaDir_shtCmdBits _)
    (spinEnds_accept.mpr hv) (by simpa using hlim)
  exact h.stretch (shtCmdBits ++ [.spinWhile true]) [.setScl true, .setScl false]
    [.spinWhile false, .spinWhile true] rfl rfl (by decide) (by decide) (by decide)

/-- What a device that lets all three spins end gives SHT_CMD: the spins end with their samples `n1`,
`n2` and `n3`, the first being sample 0, within the limit if there is one. -/
structure SpinsEnd (s : State) (n1 n2 n3 : ℕ) : Prop where
  first  : SpinEnds s true 42 n1
  second : SpinEnds s false (44 + (n1 + 1)) n2
  third  : SpinEnds s true (44 + (n1 + 1) + (n2 + 1)) n3
  limit  : ∀ l, s.spinLimit = .samples l → n1 < l ∧ n2 < l ∧ n3 < l

theorem ran_shtCmd (byte : Byte) {s : State} {n1 n2 n3 : ℕ} (hb : s.busy = false) (hn : NoReset s)
    (hv : SpinsEnd s n1 n2 n3) :
    ∃ t u, Ran (.shtCmd byte) s t u (shtCmdOps (n1 + 1) (n2 + 1) (n3 + 1)) okResponse := by
  obtain ⟨hv1, hv2, hv3, hlim⟩ := hv
  obtain ⟨x, h⟩ := reached_shtCmd_second byte hn hv1 fun l hl => (hlim l hl).1
  rw [← length_shtCmdNinth] at hv2
  obtain ⟨x, h⟩ := h.spin rfl (show 45 + 1 < shtCmdProgram.length by decide) (sdaDir_shtCmdNinth _ _)
    (spinEnds_accept.mpr hv2) fun l hl => (hlim l (by simpa using hl)).2.1
  rw [← length_shtCmdSecond] at hv3
  exact h.last_spin hb rfl rfl rfl (sdaDir_shtCmdSecond _ _ _) hv3 fun l hl => (hlim l hl).2.2

/-- The trace of such a run. -/
theorem trace_shtCmdOps {byte : Byte} {s : State} {n1 n2 n3 : ℕ} (hv : SpinsEnd s n1 n2 n3) :
    stretchTrace (accept (shtCmdCommand byte) s) (shtCmdOps (n1 + 1) (n2 + 1) (n3 + 1)) =
      shtCmdTrace byte (n1 + 1) (n2 + 1) (n3 + 1) := by
  obtain ⟨hv1, hv2, hv3, -⟩ := hv
  rw [← length_shtCmdNinth] at hv2
  rw [← length_shtCmdSecond] at hv3
  rw [shtCmdOps, stretchTrace_append, stretchTrace_spin_ends (sdaDir_shtCmdSecond _ _ _)
    (spinEnds_accept.mpr hv3), shtCmdSecond, stretchTrace_append, stretchTrace_spin_ends
    (sdaDir_shtCmdNinth _ _) (spinEnds_accept.mpr hv2), shtCmdNinth, stretchTrace_append, shtCmdFirst,
    stretchTrace_append, stretchTrace_spin_ends (sdaDir_shtCmdBits _) (spinEnds_accept.mpr hv1),
    stretchTrace_eq_trace, trace_shtCmdBits]
  rfl

/-- The premises of R142's statements, as `SpinsEnd`. -/
theorem spinsEnd_of_pulls {s : State} {n1 n2 n3 : ℕ}
    (hlim : ∀ n, s.spinLimit = .samples n → n1 + 1 ≤ n ∧ n2 + 1 ≤ n ∧ n3 + 1 ≤ n)
    (hstay1 : ∀ j, j + 1 < n1 + 1 → pullAt s.pSda s.env (42 + j) = .released)
    (hend1 : pullAt s.pSda s.env (41 + (n1 + 1)) = .low)
    (hstay2 : ∀ j, j + 1 < n2 + 1 → pullAt s.pSda s.env (44 + (n1 + 1) + j) = .low)
    (hend2 : pullAt s.pSda s.env (43 + (n1 + 1) + (n2 + 1)) = .released)
    (hstay3 : ∀ j, j + 1 < n3 + 1 → pullAt s.pSda s.env (44 + (n1 + 1) + (n2 + 1) + j) = .released)
    (hend3 : pullAt s.pSda s.env (43 + (n1 + 1) + (n2 + 1) + (n3 + 1)) = .low) :
    SpinsEnd s n1 n2 n3 where
  first := by
    refine ⟨fun j hj => by rw [hstay1 j (by omega)]; rfl, ?_⟩
    rw [show 42 + n1 = 41 + (n1 + 1) by omega, hend1]
    rfl
  second := by
    refine ⟨fun j hj => by rw [hstay2 j (by omega)]; rfl, ?_⟩
    rw [show 44 + (n1 + 1) + n2 = 43 + (n1 + 1) + (n2 + 1) by omega, hend2]
    rfl
  third := by
    refine ⟨fun j hj => by rw [hstay3 j (by omega)]; rfl, ?_⟩
    rw [show 44 + (n1 + 1) + (n2 + 1) + n3 = 43 + (n1 + 1) + (n2 + 1) + (n3 + 1) by omega, hend3]
    rfl
  limit := hlim

/-- Settles O36: SHT_CMD's parts one after the other, each spin as long as the device makes it. -/
theorem shtCmdRuns : Obligations.ShtCmdRuns := by
  intro byte s n1 n2 n3 hb hn h1 h2 h3 hlim hstay1 hend1 hstay2 hend2 hstay3 hend3
  obtain ⟨n1, rfl⟩ := Nat.exists_eq_add_of_le' h1
  obtain ⟨n2, rfl⟩ := Nat.exists_eq_add_of_le' h2
  obtain ⟨n3, rfl⟩ := Nat.exists_eq_add_of_le' h3
  have hv := spinsEnd_of_pulls hlim hstay1 hend1 hstay2 hend2 hstay3 hend3
  obtain ⟨t, u, h⟩ := ran_shtCmd byte hb hn hv
  have hregs := h.regs_eq.trans (run_shtCmdOps _ _ _ _ _)
  have hruns := h.runs
  rw [length_shtCmdOps] at hruns
  obtain rfl := h.accepted
  exact ⟨_, u, h.execs, hruns, h.completed,
    h.recorded ((stretchTrace_eq_trace _ _).symm.trans (trace_shtCmdOps hv)),
    congrArg Regs.scl hregs, congrArg Regs.sda hregs, congrArg Regs.dir hregs,
    congrArg Regs.od hregs, congrArg Regs.tx hregs, congrArg Regs.acc hregs, h.spinLimit⟩

/-- Settles O39: the bits, then the first spin's samples up to the limit. -/
theorem shtCmdTimesOut : Obligations.ShtCmdTimesOut := by
  intro byte s n hb hn h1 hlim hpull
  obtain ⟨n, rfl⟩ := Nat.exists_eq_add_of_le' h1
  have hv : ∀ j, j < n + 1 → pullLevel (pullAt s.pSda s.env (shtCmdBits.length + j)) = true :=
    fun j hj => by rw [show shtCmdBits.length = 42 from rfl, hpull j hj]; rfl
  obtain ⟨x, h⟩ := reached_shtCmd_spin byte hn
  obtain ⟨t, u, h⟩ := h.timeout hb rfl (sdaDir_shtCmdBits _) hv hlim
  have hregs := h.regs_eq.trans (run_shtCmdFirst _ _ _)
  have hruns := h.runs
  rw [← shtCmdFirst, length_shtCmdFirst] at hruns
  obtain rfl := h.accepted
  have htrace : stretchTrace (accept (shtCmdCommand byte) s) (shtCmdFirst (n + 1)) =
      shtCmdBitsTrace byte ++ List.replicate (n + 1) (.sample true) := by
    rw [shtCmdFirst, stretchTrace_append, stretchTrace_spin _ _ _ (sdaDir_shtCmdBits _), stretchTrace_eq_trace,
      trace_shtCmdBits]
    · rfl
    · intro j hj
      rw [pullAt_plainRun, pullAt_accept]
      exact hv j hj
  exact ⟨_, u, h.execs, hruns, h.completed,
    h.recorded ((stretchTrace_eq_trace _ _).symm.trans htrace),
    congrArg Regs.scl hregs, congrArg Regs.sda hregs, congrArg Regs.dir hregs,
    congrArg Regs.od hregs, congrArg Regs.tx hregs, congrArg Regs.acc hregs⟩

/-- Settles O40: at the sample the limit allows last the spin aborts, and completion leaves the pins. -/
theorem everySpinCanTimeOut : Obligations.EverySpinCanTimeOut := by
  intro byte s v hb hk hlim hv
  have hm : (shtCmdCommand byte).program[s.upc.toNat]? = some (.spinWhile v) := by
    obtain ⟨hu, rfl⟩ | ⟨hu, rfl⟩ | ⟨hu, rfl⟩ := hk <;> rw [hu] <;> rfl
  have hflow : flowOf (.spinWhile v) s = .abort .spinTimeout := by
    rw [flowOf_spin_limited hv hlim, if_pos rfl]
  refine ⟨respond (errorResponse .spinTimeout) (perform (.spinWhile v) s), ?_,
    completed_respond _ _, perform_spin_samePins v s, perform_txsr nofun, perform_acc nofun⟩
  rw [exec_eq, runCommand_busy hb]
  show microStep (shtCmdCommand byte) s = _
  unfold microStep
  rw [hm]
  simp only [hflow]

theorem pullAt_of_quietBus {s : State} (h : QuietBus s) (k : ℕ) :
    pullAt s.pSda s.env k = .released := pullAt_const h.1 h.2 k

theorem pullAt_of_stuckLow {s : State} (h : StuckLow s) (k : ℕ) :
    pullAt s.pSda s.env k = .low := pullAt_const h.1 h.2 k

/-- Settles O41: on a quiet bus every sample of the first spin is high. -/
theorem shtCmdHangsWithoutADevice : Obligations.ShtCmdHangsWithoutADevice := by
  intro byte s hb hn hquiet hlim
  refine ⟨accept (shtCmdCommand byte) s, by rw [exec_eq, runCommand_idle hb]; rfl, fun n => ?_⟩
  obtain ⟨x, h⟩ := reached_shtCmd_spin byte hn
  obtain ⟨u, hruns, hu⟩ := h.hangs rfl (sdaDir_shtCmdBits _)
    (fun j => by rw [pullAt_accept, pullAt_of_quietBus hquiet]; rfl) (by simpa using hlim) n
  have hregs := hu.regs
  rw [← shtCmdFirst, regsOf_plainRun, run_shtCmdFirst] at hregs
  exact ⟨u, hruns, hu.busy, hu.upc, congrArg Regs.scl hregs, congrArg Regs.dir hregs,
    hu.strobe (by simp [shtCmdBits]), hu.response⟩

end Sys2Proof.Machine
end

section
/-! What an observer sees of a stretch (20_memory.md R66): clock edges, the data wire at rising edges,
and signatures, each computed from the micro-operations. -/

namespace Sys2Proof.Machine

/-! ## The wires after each event -/

theorem wires_accept (c : Command) (s : State) : wires (accept c s) = wires s := by
  have hsda : sdaWire (accept c s) = sdaWire s :=
    sdaWire_congr (accept_sdaDir c s) (accept_odEn c s) (accept_sdaLat c s) (accept_pSda c s)
  rw [wires, wires, sclWire_eq, sclWire_eq, hsda, accept_sclLat]

/-- The wires before a micro-operation are those the environment's moves leave; the clock wire is the
latch all the while (R57). -/
theorem wires_envMove_fst (s : State) : (wires (envMove s)).1 = .level s.sclLat := by
  rw [wires, sclWire_eq, envMove_sclLat]

theorem stepEvents_wires (s : State) (m : MicroOp) :
    (stepEvents s m).foldl wiresAfter (wires s) = wires (plain s m) := by
  rw [stepEvents, List.foldl_append]
  rfl

/-! ## Clock edges -/

/-- The clock edge a micro-operation makes, from the clock latch before it. -/
def clockEdge (scl : Level) (m : MicroOp) : Option Edge :=
  match m with
  | .setScl true => if scl = false then some .rise else none
  | .setScl false => if scl = true then some .fall else none
  | _ => none

/-- The clock latch a micro-operation leaves. -/
def sclAfter (scl : Level) (m : MicroOp) : Level :=
  match m with
  | .setScl v => v
  | _ => scl

/-- The clock edges of a stretch, from the clock latch before it. -/
def edgesOf (scl : Level) (ms : List MicroOp) : List Edge :=
  match ms with
  | [] => []
  | m :: ms => (clockEdge scl m).toList ++ edgesOf (sclAfter scl m) ms

theorem plain_sclLat (s : State) (m : MicroOp) : (plain s m).sclLat = sclAfter s.sclLat m := by
  cases m <;> simp [plain, perform, sclAfter]

theorem edgeOf_micro {before : Wire × Wire} {s : State} (m : MicroOp) (scl sda : Wire)
    (h : before.1 = .level s.sclLat) :
    edgeOf before (.micro (traceOf m (beforeMicro s)) scl sda) = clockEdge s.sclLat m := by
  cases m with
  | setScl v => cases v <;> simp [traceOf, edgeOf, clockEdge, h]
  | _ => rfl

theorem edges_stretchEvents (s : State) (ms : List MicroOp) :
    edges (wires s) (stretchEvents s ms) = edgesOf s.sclLat ms := by
  induction ms generalizing s with
  | nil => rfl
  | cons m ms ih =>
    obtain ⟨henv, -, hwires⟩ := envEvents_wires s
    rw [stretchEvents_cons, edges_append, stepEvents_wires, ih, stepEvents, edges_append, henv, hwires,
      plain_sclLat, List.nil_append, edges, edges, List.append_nil,
      edgeOf_micro m _ _ (wires_envMove_fst s)]
    rfl

def setsScl (m : MicroOp) : Bool :=
  match m with
  | .setScl _ => true
  | _ => false

/-- Only `SetSCL` bears on the clock's edges. -/
theorem edgesOf_filter (scl : Level) (ms : List MicroOp) :
    edgesOf scl (ms.filter setsScl) = edgesOf scl ms := by
  induction ms generalizing scl with
  | nil => rfl
  | cons m ms ih =>
    cases m with
    | setScl v => exact congrArg ((clockEdge scl (.setScl v)).toList ++ ·) (ih v)
    | _ => exact ih scl

/-! ## The data wire at rising edges -/

/-- The data wire at the rising edges of a stretch in whose step `k` a sample returns `f k` and the
environment contributes `g k`. -/
def risesOf (r : Regs) (ms : List MicroOp) (f : ℕ → Level) (g : ℕ → Pull) : List Wire :=
  match ms with
  | [] => []
  | m :: ms =>
    (if clockEdge r.scl m = some .rise then [resolve (r.after m (f 0)).drive (g 0)] else []) ++
      risesOf (r.after m (f 0)) ms (fun k => f (k + 1)) fun k => g (k + 1)

theorem dataAtRises_stretchEvents (s : State) (ms : List MicroOp) :
    dataAtRises (wires s) (stretchEvents s ms) =
      risesOf (regsOf s) ms (levelsIn s ms) (pullAt s.pSda s.env) := by
  induction ms generalizing s with
  | nil => rfl
  | cons m ms ih =>
    obtain ⟨-, henv, hwires⟩ := envEvents_wires s
    have hpulls : pullAt (plain s m).pSda (plain s m).env = fun k => pullAt s.pSda s.env (k + 1) := by
      funext k
      rw [plain_pSda, plain_env, pullAt_tail]
    have hsda : sdaWire (plain s m) =
        resolve ((regsOf s).after m (sampledLevel (beforeMicro s))).drive (pullAt s.pSda s.env 0) := by
      rw [sdaWire_eq_resolve, regsOf_plain, plain_pSda]
    rw [stretchEvents_cons, dataAtRises_append, stepEvents_wires, ih, stepEvents, dataAtRises_append,
      henv, hwires, hpulls, regsOf_plain, List.nil_append, dataAtRises, dataAtRises, List.append_nil,
      edgeOf_micro m _ _ (wires_envMove_fst s), wiresAfter, hsda]
    rfl

/-! ## Signatures under an environment that does not move -/

/-- The environment contributes `p`, now and later. -/
def PullsOnly (p : Pull) (s : State) : Prop := s.pSda = p ∧ ∀ ps ∈ s.env, ∀ x ∈ ps, x = p

theorem PullsOnly.plain {p : Pull} {s : State} (h : PullsOnly p s) (m : MicroOp) :
    PullsOnly p (plain s m) := by
  refine ⟨?_, fun ps hps => h.2 ps ?_⟩
  · rw [plain_pSda]
    exact pullAt_const h.1 h.2 0
  · rw [plain_env] at hps
    exact List.mem_of_mem_tail hps

theorem PullsOnly.accept {p : Pull} {s : State} (h : PullsOnly p s) (c : Command) :
    PullsOnly p (accept c s) := by
  rwa [PullsOnly, accept_pSda, accept_env]

/-- The wires the registers make under the contribution `p`. -/
def Regs.wires (r : Regs) (p : Pull) : Wire × Wire := (.level r.scl, resolve r.drive p)

theorem wires_eq_of_pullsOnly {p : Pull} {s : State} (h : PullsOnly p s) :
    wires s = (regsOf s).wires p := by
  rw [Machine.wires, sclWire_eq, sdaWire_eq_resolve, h.1]
  rfl

/-- How often a change of the given kind happens in a stretch under the contribution `p`. -/
def Regs.changes (kind : Wire × Wire → Wire × Wire → Bool) (p : Pull) (r : Regs) (ms : List MicroOp)
    (f : ℕ → Level) : ℕ :=
  match ms with
  | [] => 0
  | m :: ms =>
    (if kind (r.wires p) ((r.after m (f 0)).wires p) then 1 else 0) +
      (r.after m (f 0)).changes kind p ms fun k => f (k + 1)

theorem countChanges_stretchEvents (kind : Wire × Wire → Wire × Wire → Bool) {p : Pull} {s : State}
    (h : PullsOnly p s) (ms : List MicroOp) :
    countChanges kind (wires s) (stretchEvents s ms) =
      (regsOf s).changes kind p ms (levelsIn s ms) := by
  induction ms generalizing s with
  | nil => rfl
  | cons m ms ih =>
    have henv : envEvents s = [] := envEvents_of_const fun ps hps x hx => (h.2 ps hps x hx).trans h.1.symm
    have hafter := wires_eq_of_pullsOnly (h.plain m)
    rw [stretchEvents_cons, countChanges_append, stepEvents_wires, ih (h.plain m), stepEvents, henv,
      List.reverse_nil, List.nil_append, countChanges, countChanges, Nat.add_zero]
    have hwires : wiresAfter (wires s)
        (.micro (traceOf m (beforeMicro s)) (sclWire (plain s m)) (sdaWire (plain s m))) =
          wires (plain s m) := rfl
    rw [hwires, hafter, wires_eq_of_pullsOnly h, regsOf_plain]
    rfl

end Sys2Proof.Machine
end

section
/-! Signatures, clock edges and data at the edges, command by command (20_memory.md R67,
41_i2c_byte_engine.md R120 to R128, 70_reset_and_hazards.md R191, R196). -/

namespace Sys2Proof.Machine

/-! ## Signatures on a quiet bus -/

/-- What a run's events show of a kind of change, under an environment that does not move. -/
theorem Ran.countChanges {i : Instr} {s t u : State} {ms : List MicroOp} {r : Response}
    (h : Ran i s t u ms r) {p : Pull} (hp : PullsOnly p s)
    (kind : Wire × Wire → Wire × Wire → Bool) :
    countChanges kind (wires s) (stretchEvents t ms) =
      (regsOf t).changes kind p ms (levelsIn t ms) := by
  obtain rfl := h.accepted
  rw [← wires_accept (commandOf i) s]
  exact countChanges_stretchEvents kind (hp.accept _) ms

/-- At a command boundary the clock is low or data is high (10_state.md R38). -/
theorem scl_low_or_sda_high {scl sda : Level} (h : ¬(scl = true ∧ sda = false)) :
    scl = false ∨ sda = true := by
  cases scl
  · exact .inl rfl
  · exact .inr (by simpa using h)

/-- I2C_START from a command boundary: one START, when data falls at entry 5, and no STOP. -/
theorem changes_i2cStartProgram {r : Regs} (f : ℕ → Level) (hdir : r.dir = .out)
    (hp : ¬(r.scl = true ∧ r.sda = false)) :
    r.changes isStart .released i2cStartProgram f = 1 ∧
      r.changes isStop .released i2cStartProgram f = 0 := by
  obtain ⟨scl, sda, dir, od, tx, acc, ack⟩ := r
  obtain rfl : dir = .out := hdir
  obtain rfl | rfl : scl = false ∨ sda = true := scl_low_or_sda_high hp
  · cases sda <;> cases od <;> exact ⟨rfl, rfl⟩
  · cases scl <;> cases od <;> exact ⟨rfl, rfl⟩

/-- I2C_STOP from a command boundary: one STOP, when data rises at entry 4, and before it a START if
both lines were high. -/
theorem changes_i2cStopProgram {r : Regs} (f : ℕ → Level) (hdir : r.dir = .out)
    (hp : ¬(r.scl = true ∧ r.sda = false)) :
    r.changes isStop .released i2cStopProgram f = 1 ∧
      r.changes isStart .released i2cStopProgram f = if r.scl = true then 1 else 0 := by
  obtain ⟨scl, sda, dir, od, tx, acc, ack⟩ := r
  obtain rfl : dir = .out := hdir
  obtain rfl | rfl : scl = false ∨ sda = true := scl_low_or_sda_high hp
  · cases sda <;> cases od <;> exact ⟨rfl, rfl⟩
  · cases scl <;> cases od <;> exact ⟨rfl, rfl⟩

/-- Settles O50: the signatures of I2C_START's micro-program on a quiet bus. -/
theorem startShowsOneStartSignature : Obligations.StartShowsOneStartSignature := by
  intro s hb hn hquiet hdir hp
  obtain ⟨t, u, h⟩ := ran_i2cStart hb hn
  have hregs : regsOf t = regsOf s := by rw [h.accepted]; rfl
  obtain ⟨hstart, hstop⟩ := changes_i2cStartProgram (r := regsOf s) (levelsIn t i2cStartProgram) hdir hp
  refine ⟨t, u, _, h.execs, h.runs, h.events, ?_, ?_⟩ <;> rw [h.countChanges hquiet, hregs]
  · exact hstart
  · exact hstop

/-- Settles O51: the signatures of I2C_STOP's micro-program on a quiet bus; a second run sets latches
that are high already. -/
theorem stopShowsOneStopSignature : Obligations.StopShowsOneStopSignature := by
  intro s hb hn hquiet hdir hp
  obtain ⟨t, u, h⟩ := ran_i2cStop hb hn
  obtain ⟨t', u', h'⟩ := ran_i2cStop h.completed.1 h.noReset
  have hregs : regsOf t = regsOf s := by rw [h.accepted]; rfl
  have hregs' : regsOf t' = regsOf u := by rw [h'.accepted]; rfl
  have hu := h.regs_eq.trans (run_i2cStopProgram _ _)
  have hu' := h'.regs_eq.trans (run_i2cStopProgram _ _)
  rw [hregs', hu] at hu'
  have hsame : regsOf u' = regsOf u := hu'.trans hu.symm
  obtain ⟨hstop, hstart⟩ := changes_i2cStopProgram (r := regsOf s) (levelsIn t i2cStopProgram) hdir hp
  refine ⟨t, u, _, h.execs, h.runs, h.events, ?_, ?_, t', u', h'.execs, h'.runs,
    congrArg Regs.scl hsame, congrArg Regs.sda hsame, congrArg Regs.dir hsame,
    congrArg Regs.od hsame⟩ <;> rw [h.countChanges hquiet, hregs]
  · exact hstop
  · exact hstart

/-! ## Clock edges -/

/-- The rising edges, the falling edges and the pulses of a list of edges. -/
def edgeCounts (gs : List Edge) : ℕ × ℕ × ℕ := (gs.count .rise, gs.count .fall, pulses gs)

/-- What a run's events show of the clock. -/
theorem Ran.edges {i : Instr} {s t u : State} {ms : List MicroOp} {r : Response}
    (h : Ran i s t u ms r) : edges (wires s) (stretchEvents t ms) = edgesOf s.sclLat ms := by
  obtain rfl := h.accepted
  rw [← wires_accept (commandOf i) s, edges_stretchEvents, accept_sclLat]

/-- The table of R67 and R191, for the commands without a spin. -/
theorem edgeCounts_program {i : Instr} (hi : ∀ b, i ≠ .shtCmd b) (high : Level) :
    edgeCounts (edgesOf high (commandOf i).program) = clockEdges i high := by
  cases i with
  | shtCmd b => exact absurd rfl (hi b)
  | i2cRead a => cases a <;> cases high <;> rfl
  | _ => cases high <;> rfl

/-- SHT_CMD's edges, whatever its spins take: those of its bits and of its ninth clock. -/
theorem edgeCounts_shtCmdOps (byte : Byte) (n1 n2 n3 : ℕ) (high : Level) :
    edgeCounts (edgesOf high (shtCmdOps n1 n2 n3)) = clockEdges (.shtCmd byte) high := by
  have hops : (shtCmdOps n1 n2 n3).filter setsScl =
      shtCmdBits.filter setsScl ++ [.setScl true, .setScl false] := by
    simp [shtCmdOps, shtCmdSecond, shtCmdNinth, shtCmdFirst, setsScl, List.filter_cons]
  rw [← edgesOf_filter, hops]
  cases high <;> rfl

/-- The commands without a spin and the number of micro-operations each performs. -/
theorem spinless_program_length {i : Instr} {n : ℕ}
    (h : (i = .i2cStart ∧ n = 8) ∨ (∃ b, i = .i2cWrite b ∧ n = 55) ∨ (∃ a, i = .i2cRead a ∧ n = 58) ∨
      (i = .i2cStop ∧ n = 6) ∨ (i = .shtStart ∧ n = 8) ∨ (i = .shtRead16 ∧ n = 88)) :
    (∀ b, i ≠ .shtCmd b) ∧ (commandOf i).program.length = n := by
  obtain ⟨rfl, rfl⟩ | ⟨b, rfl, rfl⟩ | ⟨a, rfl, rfl⟩ | ⟨rfl, rfl⟩ | ⟨rfl, rfl⟩ | ⟨rfl, rfl⟩ := h <;>
    exact ⟨nofun, rfl⟩

/-- Settles O52: the edges are the micro-program's, from the clock latch at entry. -/
theorem clockEdgesPerTransfer : Obligations.ClockEdgesPerTransfer := by
  constructor
  · intro i n hi s hb hn
    obtain ⟨hspin, rfl⟩ := spinless_program_length hi
    obtain ⟨t, u, h⟩ := ran_spinless hspin hb hn
    refine ⟨t, u, _, _, h.execs, h.runs, h.events, ?_⟩
    rw [h.edges]
    exact edgeCounts_program hspin s.sclLat
  · intro byte s n1 n2 n3 hb hn h1 h2 h3 hlim hstay1 hend1 hstay2 hend2 hstay3 hend3
    obtain ⟨n1, rfl⟩ := Nat.exists_eq_add_of_le' h1
    obtain ⟨n2, rfl⟩ := Nat.exists_eq_add_of_le' h2
    obtain ⟨n3, rfl⟩ := Nat.exists_eq_add_of_le' h3
    have hv := spinsEnd_of_pulls hlim hstay1 hend1 hstay2 hend2 hstay3 hend3
    obtain ⟨t, u, h⟩ := ran_shtCmd byte hb hn hv
    have hruns := h.runs
    rw [length_shtCmdOps] at hruns
    refine ⟨t, u, _, h.execs, hruns, h.events, ?_⟩
    rw [h.edges]
    exact edgeCounts_shtCmdOps byte _ _ _ s.sclLat

/-! ## Data at the rising edges of a write -/

/-- What a run's events show of data at the rising edges. -/
theorem Ran.dataAtRises {i : Instr} {s t u : State} {ms : List MicroOp} {r : Response}
    (h : Ran i s t u ms r) :
    dataAtRises (wires s) (stretchEvents t ms) =
      risesOf (regsOf t) ms (levelsIn t ms) (pullAt s.pSda s.env) := by
  obtain rfl := h.accepted
  rw [← wires_accept (commandOf i) s, dataAtRises_stretchEvents, accept_pSda, accept_env]

/-- Entered with the clock low, a write raises it once in each data slot, at step 2 of the slot, where
data shows the bit sent. -/
theorem risesOf_i2cWriteProgram {r : Regs} (f : ℕ → Level) (g : ℕ → Pull) (hscl : r.scl = false)
    {j : ℕ} (hj : j < 8) :
    (risesOf r i2cWriteProgram f g)[j]? =
      some (resolve { r with sda := (shiftTx^[j] r.tx).getLsbD 7 }.drive (g (6 * j + 2))) := by
  obtain ⟨scl, sda, dir, od, tx, acc, ack⟩ := r
  obtain rfl : scl = false := hscl
  interval_cases j <;> rfl

/-- On a released open-drain output a latch is its own level. -/
theorem resolve_openDrain {r : Regs} (hdir : r.dir = .out) (hod : r.od = true) :
    resolve r.drive .released = .level r.sda := by
  rw [Regs.drive, hdir, hod]
  cases r.sda <;> rfl

/-- In its intended use, nobody pulling at the data edges, a write shows its byte there. -/
theorem dataAtRises_i2cWrite {byte : Byte} {s t u : State} {r : Response}
    (h : Ran (.i2cWrite byte) s t u i2cWriteProgram r) (huse : IntendedUse (.i2cWrite byte) s)
    {j : ℕ} (hj : j < 8) (hp : pullAt s.pSda s.env (6 * j + 2) = .released) :
    (dataAtRises (wires s) (stretchEvents t i2cWriteProgram))[j]? =
      some (.level (byte.getLsbD (7 - j))) := by
  obtain ⟨hdir, hod, hscl⟩ := huse
  have hregs : regsOf t = { regsOf s with tx := byte } := by rw [h.accepted]; rfl
  rw [h.dataAtRises, risesOf_i2cWriteProgram _ _ (by rw [hregs]; exact hscl) hj, hp,
    resolve_openDrain (by rw [hregs]; exact hdir) (by rw [hregs]; exact hod), hregs]
  simp only [getLsbD_iterate_shiftTx byte hj]

/-- Settles O53: each data slot of the micro-program shows its bit. -/
theorem writeShowsTheByteAtRisingEdges : Obligations.WriteShowsTheByteAtRisingEdges := by
  intro byte s hb hn huse hp
  obtain ⟨t, u, h⟩ := ran_i2cWrite byte hb hn
  exact ⟨t, u, _, _, h.execs, h.runs, h.events, fun j hj => dataAtRises_i2cWrite h huse hj (hp j hj)⟩

/-! ## The echo -/

/-- A word whose low byte is given bit by bit and whose high byte is 0. -/
theorem eq_setWidth_of_bits {w : Word} {b : Byte}
    (hlow : ∀ j, j < 8 → w.getLsbD (7 - j) = b.getLsbD (7 - j))
    (hhigh : ∀ j, 8 ≤ j → w.getLsbD j = false) : w = b.setWidth 16 := by
  refine BitVec.eq_of_getLsbD_eq fun j hj => ?_
  rw [BitVec.getLsbD_setWidth]
  by_cases h8 : j < 8
  · have := hlow (7 - j) (by omega)
    rw [show 7 - (7 - j) = j by omega] at this
    rw [this, decide_eq_true hj, Bool.true_and]
  · rw [hhigh j (by omega), BitVec.getLsbD_of_ge b j (by omega)]
    simp

theorem pullLevel_eq_iff {p : Pull} {v : Level} (h : p = .low ↔ v = false) : pullLevel p = v := by
  cases p <;> cases v <;> simp [pullLevel] at h ⊢

/-- Settles O54: the read's samples are the levels the write showed, which are the byte's bits. -/
theorem echoGivesTheByteBack : Obligations.EchoGivesTheByteBack := by
  intro byte a s hb hn huse hp
  obtain ⟨t, u, h⟩ := ran_i2cWrite byte hb hn
  refine ⟨t, u, _, _, h.execs, h.runs, h.events, fun hecho => ?_⟩
  have hregs := h.regs_eq.trans (run_i2cWriteProgram _ _)
  have hod : u.odEn = true := by
    have : (regsOf t).od = s.odEn := by rw [h.accepted]; rfl
    exact (congrArg Regs.od hregs).trans (this.trans huse.2.1)
  obtain ⟨t', v, vs, r, hexec, hrun, hdone, -, hack, herr, -, hbits, hhigh, hlevels, -⟩ :=
    i2cReadRuns a u h.completed.1 h.noReset
  refine ⟨t', v, hexec, hrun, ?_⟩
  have hdata : r.data = byte.setWidth 16 := by
    refine eq_setWidth_of_bits (fun j hj => ?_) hhigh
    rw [hbits j hj, hlevels j hj (fun hpush => absurd (hod.symm.trans hpush.1.2) nofun), h.pulls]
    refine pullLevel_eq_iff ((hecho j hj).trans ?_)
    rw [dataAtRises_i2cWrite h huse hj (hp j hj)]
    simp
  obtain ⟨data, ack, err⟩ := r
  obtain rfl : data = byte.setWidth 16 := hdata
  obtain rfl : ack = false := hack
  obtain rfl : err = .ok := herr
  exact hdone

/-! ## A data line stuck low -/

/-- Data held low is never 1, so no change of it is a signature. -/
theorem resolve_low_ne_high (d : Drive) : resolve d .low ≠ .level true := by
  cases d <;> exact nofun

theorem isStart_stuckLow (r r' : Regs) : isStart (r.wires .low) (r'.wires .low) = false := by
  simp [isStart, Regs.wires, resolve_low_ne_high]

theorem isStop_stuckLow (r r' : Regs) : isStop (r.wires .low) (r'.wires .low) = false := by
  simp [isStop, Regs.wires, resolve_low_ne_high]

theorem changes_eq_zero {kind : Wire × Wire → Wire × Wire → Bool} {p : Pull}
    (hk : ∀ r r' : Regs, kind (r.wires p) (r'.wires p) = false) (r : Regs) (ms : List MicroOp)
    (f : ℕ → Level) : r.changes kind p ms f = 0 := by
  induction ms generalizing r f with
  | nil => rfl
  | cons m ms ih => rw [Regs.changes, hk, ih]; rfl

/-- A response with no data bit, no acknowledge and no error. -/
theorem eq_okResponse {r : Response} (hdata : ∀ j, j < 16 → r.data.getLsbD j = false)
    (hack : r.ack = false) (herr : r.err = .ok) : r = okResponse := by
  obtain ⟨data, ack, err⟩ := r
  obtain rfl : data = 0 := BitVec.eq_of_getLsbD_eq fun j hj => by simpa using hdata j hj
  obtain rfl : ack = false := hack
  obtain rfl : err = .ok := herr
  rfl

section
variable {s : State} (hb : s.busy = false) (hn : NoReset s) (hstuck : StuckLow s)
include hb hn hstuck

/-- A write finds its acknowledge slot low. -/
theorem stuckLow_write (hpush : ¬PushesHigh s) (byte : Byte) :
    ∃ t u, exec (.i2cWrite byte) s = .next t ∧ runSteps 55 t = .next u ∧
      Completed u { data := 0, ack := true, err := .ok } := by
  obtain ⟨t, u, v, hexec, hrun, hdone, -, hv, -⟩ := i2cWriteRuns byte s hb hn
  obtain rfl : v = false := by
    rw [hv fun h => hpush h.1, pullAt_of_stuckLow hstuck]
    rfl
  exact ⟨t, u, hexec, hrun, hdone⟩

/-- A read finds every slot low. -/
theorem stuckLow_read (hpush : ¬PushesHigh s) (a : Bool) :
    ∃ t u, exec (.i2cRead a) s = .next t ∧ runSteps 58 t = .next u ∧ Completed u okResponse := by
  obtain ⟨t, u, vs, r, hexec, hrun, hdone, -, hack, herr, -, hbits, hhigh, hlevels, -⟩ :=
    i2cReadRuns a s hb hn
  have hzero : r.data = (0 : Byte).setWidth 16 := by
    refine eq_setWidth_of_bits (fun j hj => ?_) hhigh
    rw [hbits j hj, hlevels j hj fun h => hpush h.1, pullAt_of_stuckLow hstuck]
    simp [pullLevel]
  obtain rfl : r = okResponse := eq_okResponse (fun j _ => by rw [hzero]; simp) hack herr
  exact ⟨t, u, hexec, hrun, hdone⟩

/-- So does SHT_READ16. -/
theorem stuckLow_shtRead16 :
    ∃ t u, exec .shtRead16 s = .next t ∧ runSteps 88 t = .next u ∧ Completed u okResponse := by
  obtain ⟨t, u, first, second, r, hexec, hrun, hdone, -, hack, herr, -, -, hfirst, hsecond, -⟩ :=
    shtRead16Runs s hb hn
  obtain rfl : r = okResponse := by
    refine eq_okResponse (fun j hj => ?_) hack herr
    by_cases h8 : j < 8
    · obtain ⟨hlevel, hbit⟩ := hsecond (7 - j) (by omega)
      rw [show 7 - (7 - j) = j by omega] at hbit
      rw [hbit, hlevel, pullAt_of_stuckLow hstuck]
      rfl
    · obtain ⟨hlevel, hbit⟩ := hfirst (15 - j) (by omega)
      rw [show 15 - (15 - j) = j by omega] at hbit
      rw [hbit, hlevel, pullAt_of_stuckLow hstuck]
      rfl
  exact ⟨t, u, hexec, hrun, hdone⟩

/-- SHT_CMD's first spin ends with its first sample; without a limit its second never does. -/
theorem stuckLow_shtCmd (hlim : s.spinLimit = .unlimited) (byte : Byte) :
    ∃ t, exec (.shtCmd byte) s = .next t ∧
      ∀ n, ∃ u, runSteps (45 + n) t = .next u ∧ u.busy = true ∧ u.upc = 45 := by
  refine ⟨accept (shtCmdCommand byte) s, by rw [exec_eq, runCommand_idle hb]; rfl, fun n => ?_⟩
  have hfirst : SpinEnds s true 42 0 :=
    ⟨nofun, by rw [pullAt_of_stuckLow hstuck]; rfl⟩
  obtain ⟨x, h⟩ := reached_shtCmd_second byte hn hfirst (by simp [hlim])
  obtain ⟨u, hruns, hu⟩ := h.hangs rfl (sdaDir_shtCmdNinth _ _)
    (fun j => by rw [pullAt_accept, pullAt_of_stuckLow hstuck]; rfl) (by simpa using hlim) n
  exact ⟨u, hruns, hu.busy, hu.upc⟩

end

/-- Settles O55: with data held low nothing changes on it while the clock is high, and every sample
that is no free value reads 0. -/
theorem stuckLowLineIsSilent : Obligations.StuckLowLineIsSilent := by
  intro s hb hn hstuck
  obtain ⟨t, u, h⟩ := ran_i2cStart hb hn
  obtain ⟨t', u', h'⟩ := ran_i2cStop hb hn
  refine ⟨⟨t, u, _, h.execs, h.runs, h.events, ?_, ?_⟩,
    ⟨t', u', _, h'.execs, h'.runs, h'.events, ?_, ?_⟩, stuckLow_write hb hn hstuck,
    stuckLow_read hb hn hstuck, stuckLow_shtRead16 hb hn hstuck, stuckLow_shtCmd hb hn hstuck⟩
  · exact (h.countChanges hstuck _).trans (changes_eq_zero isStart_stuckLow _ _ _)
  · exact (h.countChanges hstuck _).trans (changes_eq_zero isStop_stuckLow _ _ _)
  · exact (h'.countChanges hstuck _).trans (changes_eq_zero isStart_stuckLow _ _ _)
  · exact (h'.countChanges hstuck _).trans (changes_eq_zero isStop_stuckLow _ _ _)

end Sys2Proof.Machine
end

section
/-! Nothing later depends on what an earlier command left in the working registers (10_state.md R37,
40_line_and_delay_primitives.md R112): two machines that differ only there look the same for ever,
because a command reads no working register before it has written it. -/

namespace Sys2Proof.Machine

/-! ## All but the working registers -/

/-- The state with the working registers, the response latches, the latched command and the hidden
counters blanked out. -/
def visible (s : State) : State :=
  { s with
    txsr := 0, acc := 0, result := 0, ackf := false, err := .ok, ack := false, curOp := 0, curArg := 0,
    spinCnt := 0, dlyCnt := 0 }

theorem tick_visible (s : State) : tick (visible s) = visible (tick s) := by
  unfold tick envMove
  rw [show (visible s).env = s.env from rfl]
  split <;> rfl

theorem hostWait_visible (s : State) : hostWait (visible s) = visible (hostWait s) := by
  unfold hostWait
  rw [show (visible s).host = s.host from rfl]
  split <;> rfl

theorem countDraw_visible (s : State) : countDraw (visible s) = visible (countDraw s) := by
  unfold countDraw
  rw [show sdaWire (visible s) = sdaWire s from rfl]
  split <;> rfl

/-- A sample's event and draw are the same whatever register the sample goes to. -/
theorem visible_sample (x : State) (v : Level) :
    visible (record (.sample v) (countDraw x)) = record (.sample v) (countDraw (visible x)) := by
  rw [countDraw_visible]
  rfl

/-- Only the bit a `SetSDA` sends from TXSR shows outside what a micro-operation finds there. -/
theorem visible_perform {m : MicroOp} (hm : m ≠ .setSda .txMsb) (s : State) :
    visible (perform m s) = visible (perform m (visible s)) := by
  cases m with
  | setSda src =>
    cases src with
    | const v => rfl
    | txMsb => exact absurd rfl hm
  | sampleAcc =>
    exact (visible_sample { s with acc := accumulate s.acc (sampledLevel s) } _).trans
      (visible_sample { visible s with acc := accumulate (visible s).acc (sampledLevel s) } _).symm
  | sampleAck =>
    exact (visible_sample { s with ack := ackOf (sampledLevel s) } _).trans
      (visible_sample { visible s with ack := ackOf (sampledLevel s) } _).symm
  | spinWhile v =>
    exact (visible_sample { s with spinCnt := s.spinCnt + 1 } _).trans
      (visible_sample { visible s with spinCnt := (visible s).spinCnt + 1 } _).symm
  | _ => rfl

theorem sampledLevel_visible (s : State) : sampledLevel (visible s) = sampledLevel s := rfl

/-! ## Two machines that look alike -/

/-- Of the working registers `i` has written by the time it stands where `s` does, the two machines
have the same. -/
structure WorkAlike (i : Instr) (s s' : State) : Prop where
  txsr : (commandOf i).init = .loadTxsr (argOf i) → s.txsr = s'.txsr
  acc  : (commandOf i).init = .clearAcc → s.acc = s'.acc
  ack  : .sampleAck ∈ (commandOf i).program.take s.upc.toNat → s.ack = s'.ack
  spin : isSpin (commandOf i).program[s.upc.toNat]? = true → s.spinCnt = s'.spinCnt

/-- Two machines that look the same from outside, now and, as `step_alike` says, for ever. -/
structure Alike (s s' : State) : Prop where
  visible : visible s = visible s'
  latched : s.busy = true → s.curOp = s'.curOp ∧ s.curArg = s'.curArg
  work    : ∀ i, s.busy = true → currentInstr s = some i → WorkAlike i s s'

theorem alike_of_idle {s s' : State} (hv : visible s = visible s') (hb : s.busy = false) :
    Alike s s' :=
  ⟨hv, fun h => absurd (hb.symm.trans h) nofun, fun _ h => absurd (hb.symm.trans h) nofun⟩

theorem Alike.observe {s s' : State} (h : Alike s s') :
    observe (.next s) = Machine.observe (.next s') :=
  (congrArg (fun x => Machine.observe (.next x)) h.visible :)

section
variable {s s' : State} (hv : visible s = visible s')
include hv

theorem visible_tick : visible (tick s) = visible (tick s') := by
  rw [← tick_visible, hv, tick_visible]

theorem visible_beforeMicro : visible (beforeMicro s) = visible (beforeMicro s') := by
  rw [beforeMicro, ← hostWait_visible, visible_tick hv, hostWait_visible, beforeMicro]

theorem host_eq_of_visible : s.host = s'.host := (congrArg State.host hv :)

theorem busy_eq_of_visible : s.busy = s'.busy := (congrArg State.busy hv :)

theorem upc_eq_of_visible : s.upc = s'.upc := (congrArg State.upc hv :)

theorem sampledLevel_eq_of_visible : sampledLevel s = sampledLevel s' := by
  rw [← sampledLevel_visible, hv, sampledLevel_visible]

/-- A micro-operation keeps two machines alike outside, if the bit it may send is the same. -/
theorem visible_perform_eq {m : MicroOp} (htx : m = .setSda .txMsb → s.txsr = s'.txsr) :
    visible (perform m s) = visible (perform m s') := by
  by_cases hm : m = .setSda .txMsb
  · subst hm
    show setSda (s.txsr.getLsbD 7) (visible s) = setSda (s'.txsr.getLsbD 7) (visible s')
    rw [hv, htx rfl]
  · rw [visible_perform hm s, hv, ← visible_perform hm s']

theorem visible_respond (r : Response) : visible (respond r s) = visible (respond r s') :=
  (congrArg (fun x => visible (respond r x)) hv :)

theorem visible_enter (c : Command) (k : BitVec 7) :
    visible (enter c k s) = visible (enter c k s') :=
  (congrArg (fun x => visible (enter c k x)) hv :)

theorem visible_withHost (hs : List HostMove) :
    visible (withHost hs s) = visible (withHost hs s') :=
  (congrArg (withHost hs) hv :)

theorem visible_accept (c : Command) : visible (accept c s) = visible (accept c s') := by
  have h : ∀ x, visible (accept c x) = visible (accept c (visible x)) := by
    intro x
    rw [accept, accept]
    cases c.init <;> rfl
  rw [h, hv, ← h]

/-- A reset leaves nothing of the working registers. -/
theorem applyReset_eq_of_visible : applyReset s = applyReset s' :=
  (congrArg applyReset hv :)

end

/-! ## The engine's move -/

section
variable {m : MicroOp} {s s' : State}

theorem perform_txsr_congr (h : s.txsr = s'.txsr) : (perform m s).txsr = (perform m s').txsr := by
  cases m <;> simp [perform, h]

theorem perform_acc_congr (hv : visible s = visible s') (h : s.acc = s'.acc) :
    (perform m s).acc = (perform m s').acc := by
  cases m <;> simp [perform, h, sampledLevel_eq_of_visible hv]

theorem perform_ack_congr (hv : visible s = visible s') (h : m = .sampleAck ∨ s.ack = s'.ack) :
    (perform m s).ack = (perform m s').ack := by
  obtain rfl | h := h
  · simp [perform, sampledLevel_eq_of_visible hv]
  · cases m <;> simp [perform, h, sampledLevel_eq_of_visible hv]

theorem perform_spinCnt_congr (h : s.spinCnt = s'.spinCnt) :
    (perform m s).spinCnt = (perform m s').spinCnt := by
  cases m <;> simp [perform, h]

end

section
variable {i : Instr} {m : MicroOp} {s s' : State} (hv : visible s = visible s')
  (hw : WorkAlike i s s') (hm : (commandOf i).program[s.upc.toNat]? = some m)
include hv hw hm

theorem WorkAlike.visible_perform : visible (perform m s) = visible (perform m s') :=
  visible_perform_eq hv fun e => hw.txsr (init_of_setSda_txMsb (e ▸ hm))

theorem WorkAlike.flowOf : flowOf m s = Machine.flowOf m s' := by
  cases m with
  | spinWhile v =>
    have hlim : s.spinLimit = s'.spinLimit := (congrArg State.spinLimit hv :)
    have hcnt : s.spinCnt = s'.spinCnt := hw.spin (by rw [hm]; rfl)
    simp only [Machine.flowOf, sampledLevel_eq_of_visible hv, hlim, hcnt]
  | _ => rfl

/-- What the command has written by now, it has written alike. -/
theorem WorkAlike.ack_perform (h : .sampleAck ∈ (commandOf i).program.take (s.upc.toNat + 1)) :
    (perform m s).ack = (perform m s').ack := by
  rw [List.take_add_one, hm, Option.toList_some, List.mem_append, List.mem_singleton] at h
  exact perform_ack_congr hv (h.symm.imp Eq.symm hw.ack)

/-- The next entry finds the working registers it may use alike. -/
theorem WorkAlike.enter (hl : s.upc.toNat + 1 < (commandOf i).program.length) :
    WorkAlike i (enter (commandOf i) (s.upc + 1) (perform m s))
      (enter (commandOf i) (s.upc + 1) (perform m s')) where
  txsr h := perform_txsr_congr (hw.txsr h)
  acc h := perform_acc_congr hv (hw.acc h)
  ack h := by
    rw [enter_upc, toNat_upc_succ hl] at h
    exact hw.ack_perform hv hm h
  spin h := by
    rw [enter_upc] at h
    rw [enter_spinCnt, enter_spinCnt, if_pos h, if_pos h]

/-- A command that ends answers alike. -/
theorem WorkAlike.replyOf (hl : s.upc.toNat + 1 = (commandOf i).program.length) :
    replyOf (commandOf i).reply (perform m s) = Machine.replyOf (commandOf i).reply (perform m s') := by
  cases i with
  | i2cWrite b =>
    have hack := hw.ack_perform hv hm (by
      rw [hl, List.take_length]
      exact (by decide : .sampleAck ∈ i2cWriteProgram))
    show Response.mk 0 (perform m s).ack .ok = Response.mk 0 (perform m s').ack .ok
    rw [hack]
  | i2cRead a =>
    exact congrArg (fun acc : Word => Response.mk ((acc.extractLsb' 0 8).setWidth 16) false .ok)
      (perform_acc_congr hv (hw.acc rfl))
  | shtRead16 =>
    exact congrArg (fun acc : Word => Response.mk acc false .ok) (perform_acc_congr hv (hw.acc rfl))
  | _ => rfl

end

theorem microStep_of_stay {c : Command} {s : State} {m : MicroOp}
    (hm : c.program[s.upc.toNat]? = some m) (hf : flowOf m s = .stay) :
    microStep c s = .next (perform m s) := by
  unfold microStep
  rw [hm]
  simp only [hf]

theorem microStep_of_abort {c : Command} {s : State} {m : MicroOp} {e : ErrCode}
    (hm : c.program[s.upc.toNat]? = some m) (hf : flowOf m s = .abort e) :
    microStep c s = .next (respond (errorResponse e) (perform m s)) := by
  unfold microStep
  rw [hm]
  simp only [hf]

theorem microStep_of_advance {c : Command} {s : State} {m : MicroOp}
    (hm : c.program[s.upc.toNat]? = some m) (hf : flowOf m s = .advance) :
    microStep c s = .next (advance c (perform m s)) := by
  unfold microStep
  rw [hm]
  simp only [hf]

theorem alike_of_busy {i : Instr} {t t' : State} (hv : visible t = visible t')
    (hl : t.curOp = t'.curOp ∧ t.curArg = t'.curArg) (hi : currentInstr t = some i)
    (hw : WorkAlike i t t') : Alike t t' := by
  refine ⟨hv, fun _ => hl, fun j _ hj => ?_⟩
  obtain rfl : i = j := Option.some.inj (hi.symm.trans hj)
  exact hw

section
variable {i : Instr} {m : MicroOp} {s s' : State} (hv : visible s = visible s')
  (hl : s.curOp = s'.curOp ∧ s.curArg = s'.curArg) (hi : currentInstr s = some i)
  (hw : WorkAlike i s s') (hm : (commandOf i).program[s.upc.toNat]? = some m)
include hv hl hi hw hm

/-- Both machines enter the next entry, or both complete, alike. -/
theorem advance_alike :
    Alike (advance (commandOf i) (perform m s)) (advance (commandOf i) (perform m s')) := by
  have hperf := hw.visible_perform hv hm
  have hupc := upc_eq_of_visible hv
  unfold advance
  rw [perform_upc, perform_upc, ← hupc]
  have hlt : s.upc.toNat < (commandOf i).program.length := (List.getElem?_eq_some_iff.mp hm).1
  by_cases hnext : s.upc.toNat + 1 < (commandOf i).program.length
  · rw [if_pos hnext, if_pos hnext]
    exact alike_of_busy (visible_enter hperf _ _) (by simpa using hl)
      ((currentInstr_congr rfl rfl).trans ((currentInstr_perform m s).trans hi))
      (hw.enter hv hm hnext)
  · rw [if_neg hnext, if_neg hnext, hw.replyOf hv hm (by omega)]
    exact alike_of_idle (visible_respond hperf _) rfl

/-- The engine's move keeps two machines alike. -/
theorem microStep_alike :
    ∃ t t', microStep (commandOf i) s = .next t ∧ microStep (commandOf i) s' = .next t' ∧
      Alike t t' := by
  have hperf := hw.visible_perform hv hm
  have hm' : (commandOf i).program[s'.upc.toNat]? = some m := by rw [← upc_eq_of_visible hv, hm]
  have hflow := hw.flowOf hv hm
  obtain hf | ⟨⟨v, rfl⟩, hf | hf⟩ := flowOf_cases m s
  · exact ⟨_, _, microStep_of_advance hm hf, microStep_of_advance hm' (hflow.symm.trans hf),
      advance_alike hv hl hi hw hm⟩
  · refine ⟨_, _, microStep_of_stay hm hf, microStep_of_stay hm' (hflow.symm.trans hf), ?_⟩
    refine alike_of_busy hperf (by simpa using hl) ((currentInstr_perform _ s).trans hi)
      ⟨fun h => perform_txsr_congr (hw.txsr h), fun h => perform_acc_congr hv (hw.acc h), fun h => ?_,
        fun h => ?_⟩
    · rw [perform_upc] at h
      exact perform_ack_congr hv (.inr (hw.ack h))
    · rw [perform_upc] at h
      exact perform_spinCnt_congr (hw.spin h)
  · exact ⟨_, _, microStep_of_abort hm hf, microStep_of_abort hm' (hflow.symm.trans hf),
      alike_of_idle (visible_respond hperf _) rfl⟩

end

/-- Acceptance writes every working register its command uses. -/
theorem accept_alike (i : Instr) {s s' : State} (hv : visible s = visible s') :
    Alike (accept (commandOf i) s) (accept (commandOf i) s') := by
  refine alike_of_busy (visible_accept hv _) (by simp) (currentInstr_accept i s)
    ⟨fun h => ?_, fun h => ?_, fun h => ?_, fun h => ?_⟩
  · rw [accept, accept, h]
    rfl
  · rw [accept, accept, h]
    rfl
  · simp at h
  · rw [accept_upc] at h
    rw [accept, accept, enter_spinCnt, enter_spinCnt, if_pos h, if_pos h]

/-! ## A step, and a run -/

/-- What comes before the engine's move leaves the working registers. -/
theorem WorkAlike.beforeMicro {i : Instr} {s s' : State} (h : WorkAlike i s s') :
    WorkAlike i (beforeMicro s) (beforeMicro s') := by
  obtain ⟨htx, hacc, hack, hspin⟩ := h
  exact ⟨by simpa using htx, by simpa using hacc, by simpa using hack, by simpa using hspin⟩

/-- Two machines alike both stop, or both go on alike. -/
theorem step_alike {s s' : State} (h : Alike s s') :
    (∃ r, step s = .fault r ∧ step s' = .fault r) ∨
    ∃ t t', step s = .next t ∧ step s' = .next t' ∧ Alike t t' := by
  obtain ⟨hv, hlatched, hwork⟩ := h
  have hhost := host_eq_of_visible hv
  have hbusy := busy_eq_of_visible hv
  have hafter : ∀ rest, visible { tick s with host := rest } = visible { tick s' with host := rest } :=
    visible_withHost (visible_tick hv)
  by_cases hr : ∃ rest, s.host = .reset :: rest
  · obtain ⟨rest, hh⟩ := hr
    refine .inr ⟨_, _, step_reset hh, step_reset (hhost ▸ hh), ?_⟩
    rw [applyReset_eq_of_visible (hafter rest)]
    exact alike_of_idle rfl rfl
  have hr' := not_exists.mp hr
  cases hb : s.busy with
  | true =>
    obtain ⟨hop, harg⟩ := hlatched hb
    have hcur := currentInstr_congr hop harg
    cases hi : currentInstr s with
    | none =>
      exact .inl ⟨_, step_lost hr' hb hi, step_lost (hhost ▸ hr') (hbusy ▸ hb) (hcur ▸ hi)⟩
    | some i =>
      rw [step_engine hr' hb hi, step_engine (hhost ▸ hr') (hbusy ▸ hb) (hcur ▸ hi)]
      cases hm : (commandOf i).program[(beforeMicro s).upc.toNat]? with
      | none =>
        left
        have hm' := hm
        rw [upc_eq_of_visible (visible_beforeMicro hv)] at hm'
        refine ⟨.sequencerLost, ?_, ?_⟩ <;> unfold microStep
        · rw [hm]
        · rw [hm']
      | some m =>
        exact .inr (microStep_alike (visible_beforeMicro hv) (by simpa using ⟨hop, harg⟩)
          ((currentInstr_beforeMicro s).trans hi) (hwork i hb hi).beforeMicro hm)
  | false =>
    have hidle : (s.host = [] ∨ ∃ rest, s.host = .wait :: rest) →
        ∃ t t', step s = .next t ∧ step s' = .next t' ∧ Alike t t' := fun hh =>
      ⟨_, _, step_idle hb hh, step_idle (hbusy ▸ hb) (hhost ▸ hh),
        alike_of_idle (visible_beforeMicro hv) ((beforeMicro_busy s).trans hb)⟩
    cases hh : s.host with
    | nil => exact .inr (hidle (.inl hh))
    | cons a rest =>
      cases a with
      | reset => exact absurd ⟨rest, hh⟩ hr
      | wait => exact .inr (hidle (.inr ⟨rest, hh⟩))
      | issue w =>
        cases hd : decode? w with
        | none =>
          exact .inr ⟨_, _, step_illegal hb hh hd, step_illegal (hbusy ▸ hb) (hhost ▸ hh) hd,
            alike_of_idle (visible_respond (hafter rest) _) rfl⟩
        | some i =>
          exact .inr ⟨_, _, step_accept hb hh hd, step_accept (hbusy ▸ hb) (hhost ▸ hh) hd,
            accept_alike i (hafter rest)⟩

theorem observe_runSteps_alike (k : ℕ) {s s' : State} (h : Alike s s') :
    observe (runSteps k s) = observe (runSteps k s') := by
  induction k generalizing s s' with
  | zero => exact h.observe
  | succ k ih =>
    rw [runSteps_succ, runSteps_succ]
    obtain ⟨r, hs, hs'⟩ | ⟨t, t', hs, hs', ht⟩ := step_alike h
    · rw [hs, hs']
    · rw [hs, hs']
      exact ih ht

/-- Settles O56: idle machines that differ in the working registers alone are alike. -/
theorem earlierWorkingRegistersDoNotMatter : Obligations.EarlierWorkingRegistersDoNotMatter :=
  fun _ _ _ _ _ _ _ _ _ _ _ hb k => observe_runSteps_alike k (alike_of_idle rfl hb)

end Sys2Proof.Machine
end

section
/-! The end of a run (60_exceptions.md R174): along a run every word consumed is answered once, the last
answer is what the response latches show, and a machine with no word left only records what the
environment does. -/

namespace Sys2Proof.Machine

/-! ## Responses on the record -/

/-- A move on the bus is no response. -/
theorem eventResponse_of_onBus {e : Event} (h : onBus e = true) : eventResponse e = none := by
  cases e with
  | response r => cases h
  | _ => rfl

theorem responsesOf_of_onBus {es : List Event} (h : ∀ e ∈ es, onBus e = true) :
    responsesOf es = [] :=
  List.filterMap_eq_nil_iff.mpr fun e he => eventResponse_of_onBus (h e he)

theorem responsesOf_append (es es' : List Event) :
    responsesOf (es ++ es') = responsesOf es ++ responsesOf es' := List.filterMap_append

theorem opsOf_append (es es' : List Event) : opsOf (es ++ es') = opsOf es ++ opsOf es' :=
  List.filterMap_append

theorem responsesOf_envEvents (s : State) : responsesOf (envEvents s).reverse = [] :=
  responsesOf_of_onBus fun e he => (envEvents_spec s).1 e (List.mem_reverse.mp he)

theorem responsesOf_stepEvents (s : State) (m : MicroOp) : responsesOf (stepEvents s m) = [] := by
  rw [stepEvents, responsesOf_append, responsesOf_envEvents]
  rfl

/-! ## What a stretch of a run adds -/

/-- The response the latches show. -/
def latchedResponse (s : State) : Response := { data := s.result, ack := s.ackf, err := s.err }

/-- How many responses are still to come: one for each word not yet taken, and one for the command in
progress. -/
def pending (s : State) : ℕ := (programOf s.host).length + if s.busy = true then 1 else 0

/-- From `s` to `t` the record gained the events `es`; they answer what is no longer pending, and the
last answer, or the earlier one if there is none, is what the latches show. -/
structure Answers (s t : State) (es : List Event) : Prop where
  log   : t.log = es.reverse ++ s.log
  count : (responsesOf es).length + pending t = pending s
  last  : (responsesOf es).getLastD (latchedResponse s) = latchedResponse t
  host  : ∀ m ∈ t.host, m ∈ s.host

theorem answers_refl (s : State) : Answers s s [] :=
  ⟨rfl, Nat.zero_add _, rfl, fun _ h => h⟩

theorem getLastD_append {α : Type} (l l' : List α) (a : α) :
    (l ++ l').getLastD a = l'.getLastD (l.getLastD a) := by
  rw [List.getLastD_eq_getLast?, List.getLastD_eq_getLast?, List.getLastD_eq_getLast?,
    List.getLast?_append]
  cases l'.getLast? <;> rfl

theorem Answers.trans {s t u : State} {es es' : List Event} (h : Answers s t es)
    (h' : Answers t u es') : Answers s u (es ++ es') where
  log := by rw [h'.log, h.log, List.reverse_append, List.append_assoc]
  count := by
    rw [responsesOf_append, List.length_append, Nat.add_assoc, h'.count, h.count]
  last := by rw [responsesOf_append, getLastD_append, h.last, h'.last]
  host m hm := h.host m (h'.host m hm)

theorem NoReset.of_answers {s t : State} {es : List Event} (hn : NoReset s) (h : Answers s t es) :
    NoReset t := fun m hm => hn m (h.host m hm)

/-! ## One step -/

theorem programOf_hostWait (s : State) : programOf (hostWait s).host = programOf s.host := by
  unfold hostWait
  split
  · rename_i rest hh
    rw [hh]
    rfl
  · rfl

theorem programOf_beforeMicro (s : State) : programOf (beforeMicro s).host = programOf s.host := by
  rw [beforeMicro, programOf_hostWait, tick_host]

theorem beforeMicro_host_subset {s : State} {m : HostMove} (h : m ∈ (beforeMicro s).host) :
    m ∈ s.host := by
  have := hostWait_host_subset h
  rwa [tick_host] at this

/-- A step without a response that leaves the words pending and the latches. -/
theorem answers_of_silent {s t : State} {es : List Event} (hlog : t.log = es.reverse ++ s.log)
    (hes : responsesOf es = []) (hp : pending t = pending s) (hl : SameResponse s t)
    (hh : ∀ m ∈ t.host, m ∈ s.host) : Answers s t es := by
  obtain ⟨hdata, hack, herr⟩ := hl
  refine ⟨hlog, by rw [hes, hp]; exact Nat.zero_add _, ?_, hh⟩
  rw [hes, latchedResponse, latchedResponse, hdata, hack, herr]
  rfl

/-- A step whose one response takes something pending away. -/
theorem answers_of_respond {s x : State} {es : List Event} {r : Response}
    (hlog : x.log = es.reverse ++ s.log) (hes : responsesOf es = [])
    (hp : (programOf x.host).length + 1 = pending s) (hh : ∀ m ∈ x.host, m ∈ s.host) :
    Answers s (respond r x) (es ++ [.response r]) := by
  have hone : responsesOf (es ++ [.response r]) = [r] := by
    rw [responsesOf_append, hes]
    rfl
  refine ⟨by rw [respond_log, hlog]; simp, ?_, by rw [hone]; rfl, hh⟩
  rw [hone, ← hp, List.length_singleton, Nat.add_comm]
  rfl

/-- The engine's move. -/
theorem answers_of_microStep {s t : State} {i : Instr} (hb : s.busy = true)
    (h : microStep (commandOf i) (beforeMicro s) = .next t) : ∃ es, Answers s t es := by
  have hlog : ∀ m, (perform m (beforeMicro s)).log = (stepEvents s m).reverse ++ s.log := plain_log s
  have hhost : ∀ m, ∀ a ∈ (perform m (beforeMicro s)).host, a ∈ s.host := by
    intro m a ha
    rw [perform_host] at ha
    exact beforeMicro_host_subset ha
  have hprog : ∀ m, programOf (perform m (beforeMicro s)).host = programOf s.host := by
    intro m
    rw [perform_host, programOf_beforeMicro]
  obtain ⟨m, -, ⟨-, -, rfl⟩ | ⟨-, -, rfl⟩ | ⟨r, -, rfl⟩⟩ := microStep_cases h
  · refine ⟨_, answers_of_silent (hlog m) (responsesOf_stepEvents s m) ?_ (by simp [SameResponse])
      (hhost m)⟩
    rw [pending, pending, enter_host, hprog, enter_busy, perform_busy, beforeMicro_busy]
  · refine ⟨_, answers_of_silent (hlog m) (responsesOf_stepEvents s m) ?_ (by simp [SameResponse])
      (hhost m)⟩
    rw [pending, pending, hprog, perform_busy, beforeMicro_busy]
  · refine ⟨_, answers_of_respond (hlog m) (responsesOf_stepEvents s m) ?_ (hhost m)⟩
    rw [pending, hprog, hb]
    rfl

theorem answers_of_step {s t : State} (hn : NoReset s) (h : step s = .next t) :
    ∃ es, Answers s t es := by
  have henv : (envEvents s).reverse.reverse ++ s.log = envEvents s ++ s.log := by
    rw [List.reverse_reverse]
  obtain ⟨rest, hh, -⟩ | ⟨-, ⟨i, hb, -, hm⟩ | ⟨w, rest, i, hb, hh, -, rfl⟩ |
    ⟨w, rest, e, hb, hh, -, rfl⟩ | ⟨hb, -, rfl⟩⟩ := step_cases h
  · exact absurd rfl (hn .reset (by rw [hh]; exact List.mem_cons_self))
  · exact answers_of_microStep hb hm
  · refine ⟨_, answers_of_silent ?_ (responsesOf_envEvents s) ?_ (by simp [SameResponse]) ?_⟩
    · rw [accept_log, henv]
      exact tick_log s
    · rw [pending, pending, accept_busy, hb, hh, accept_host]
      rfl
    · rw [accept_host, hh]
      exact fun m hm => List.mem_cons_of_mem _ hm
  · refine ⟨_, answers_of_respond ?_ (responsesOf_envEvents s) ?_ ?_⟩
    · rw [henv]
      exact tick_log s
    · rw [pending, hb, hh]
      rfl
    · rw [hh]
      exact fun m hm => List.mem_cons_of_mem _ hm
  · refine ⟨_, answers_of_silent ?_ (responsesOf_envEvents s) ?_ (by simp [SameResponse]) ?_⟩
    · rw [beforeMicro_log, henv]
    · rw [pending, pending, programOf_beforeMicro, beforeMicro_busy]
    · exact fun m hm => beforeMicro_host_subset hm

/-- Along every run without a reset the words are answered one by one. -/
theorem answers_of_runSteps {k : ℕ} {s t : State} (hn : NoReset s) (h : runSteps k s = .next t) :
    ∃ es, Answers s t es := by
  induction k generalizing s with
  | zero =>
    obtain rfl : s = t := Host.Outcome.next.inj h
    exact ⟨[], answers_refl s⟩
  | succ k ih =>
    cases hs : step s with
    | next x =>
      rw [runSteps_succ_of hs] at h
      obtain ⟨es, hes⟩ := answers_of_step hn hs
      obtain ⟨es', hes'⟩ := ih (hn.of_answers hes) h
      exact ⟨es ++ es', hes.trans hes'⟩
    | fault r =>
      rw [runSteps_succ, hs] at h
      cases h
    | refused r =>
      rw [runSteps_succ, hs] at h
      cases h

/-! ## After the end -/

/-- A machine that is idle, has no word left to take and is not reset. -/
structure Finished (s : State) : Prop where
  idle    : s.busy = false
  program : programOf s.host = []
  noReset : NoReset s

/-- From `s` to `u` the record gained the events `es`, none of which is a response or a
micro-operation, and the pins are the same. -/
structure Rested (s u : State) (es : List Event) : Prop where
  log       : u.log = es.reverse ++ s.log
  responses : responsesOf es = []
  ops       : opsOf es = []
  pins      : SamePins s u

theorem Finished.host {s : State} (h : Finished s) :
    s.host = [] ∨ ∃ rest, s.host = .wait :: rest := by
  cases hh : s.host with
  | nil => exact .inl rfl
  | cons m rest =>
    cases m with
    | wait => exact .inr ⟨rest, rfl⟩
    | reset => exact absurd rfl (h.noReset .reset (by rw [hh]; exact List.mem_cons_self))
    | issue w =>
      have := h.program
      rw [hh] at this
      cases this

theorem Finished.step {s : State} (h : Finished s) :
    step s = .next (beforeMicro s) ∧ Finished (beforeMicro s) ∧
      Rested s (beforeMicro s) (envEvents s).reverse := by
  refine ⟨step_idle h.idle h.host, ⟨(beforeMicro_busy s).trans h.idle, ?_, h.noReset.beforeMicro⟩, ?_⟩
  · rw [programOf_beforeMicro, h.program]
  · exact ⟨by rw [beforeMicro_log, List.reverse_reverse], responsesOf_envEvents s, (envEvents_spec s).2,
      by simp [SamePins]⟩

theorem Finished.runSteps {s : State} (h : Finished s) (j : ℕ) :
    ∃ u es, runSteps j s = .next u ∧ Finished u ∧ Rested s u es := by
  induction j generalizing s with
  | zero => exact ⟨s, [], rfl, h, rfl, rfl, rfl, rfl, rfl, rfl, rfl⟩
  | succ j ih =>
    obtain ⟨hstep, hfin, hrest⟩ := h.step
    obtain ⟨u, es, hrun, hu, hes⟩ := ih hfin
    obtain ⟨hscl, hsda, hdir, hod⟩ := hrest.pins
    obtain ⟨hscl', hsda', hdir', hod'⟩ := hes.pins
    refine ⟨u, (envEvents s).reverse ++ es, (runSteps_succ_of hstep).trans hrun, hu, ?_, ?_, ?_,
      hscl'.trans hscl, hsda'.trans hsda, hdir'.trans hdir, hod'.trans hod⟩
    · rw [hes.log, hrest.log, List.reverse_append, List.append_assoc]
    · rw [responsesOf_append, hrest.responses, hes.responses]
      rfl
    · rw [opsOf_append, hrest.ops, hes.ops]
      rfl

/-! ## The outcome of a complete run -/

theorem newEvents_eq {s t : State} {es : List Event} (h : t.log = es.reverse ++ s.log) :
    newEvents s t = es := by
  rw [newEvents, h, List.length_append, Nat.add_sub_cancel, List.take_left, List.reverse_reverse]

/-- What comes after the end adds nothing to the outcome. -/
theorem outcomeOf_rested {s t u : State} {es es' : List Event} (h : t.log = es.reverse ++ s.log)
    (h' : Rested t u es') : outcomeOf s u = outcomeOf s t := by
  obtain ⟨hlog, hresp, hops, hscl, hsda, hdir, hod⟩ := h'
  have hu : u.log = (es ++ es').reverse ++ s.log := by
    rw [hlog, h, List.reverse_append, List.append_assoc]
  rw [outcomeOf, outcomeOf, newEvents_eq hu, newEvents_eq h, responsesOf_append, opsOf_append, hresp,
    hops, hscl, hsda, hdir, hod, List.append_nil, List.append_nil]

/-- Settles O60: nothing is pending at the end, so the run has answered every word; from then on the
machine rests. -/
theorem completeRunAnswersEveryWord : Obligations.CompleteRunAnswersEveryWord := by
  rintro program k s t ⟨hb, hn, hprog, hrun, hdone, hidle⟩
  obtain ⟨es, hes⟩ := answers_of_runSteps hn hrun
  have hnew := newEvents_eq hes.log
  have hlen : (responsesOf es).length = program.length := by
    have := hes.count
    rw [pending, pending, hdone, hidle, hprog, hb] at this
    exact this
  refine ⟨by rw [hnew, hes.log], by rw [outcomeOf, hnew, hlen], fun hne => ?_, fun j => ?_⟩
  · obtain hnil | ⟨l, r, hl⟩ := List.eq_nil_or_concat' (responsesOf es)
    · rw [hnil] at hlen
      exact absurd (List.length_eq_zero_iff.mp hlen.symm) hne
    · have hlast := hes.last
      rw [hl, List.getLastD_concat] at hlast
      rw [outcomeOf, hnew, hl, List.getLast?_concat, hlast]
      rfl
  · obtain ⟨u, es', hmore, hu, hrest⟩ := Finished.runSteps ⟨hidle, hdone, hn.of_answers hes⟩ j
    have hall := (runSteps_add hrun).trans hmore
    exact ⟨u, hall, ⟨hb, hn, hprog, hall, hu.program, hu.idle⟩, outcomeOf_rested hes.log hrest⟩

end Sys2Proof.Machine
end
